-- ==== Sys2Proof/Word.lean ====
section
/-! DEFINITION. The word types of the ERT frame core: bytes, the 16-bit CRC half words and the 32-bit
registers and command words (00_scope.md R7: every value is unsigned, bit 0 least significant). -/

namespace Sys2Proof

/-- A byte of the frame buffer (00_scope.md R8). -/
abbrev Byte := BitVec 8

/-- A 16-bit quantity: a CRC, its polynomial, initial value or final XOR (00_scope.md R6, `CRC_W`). -/
abbrev Half := BitVec 16

/-- A host register or a command word (00_scope.md R6, `REG_W` = 32; 30_encoding.md R80). -/
abbrev Word := BitVec 32

/-- A natural number as a register value, zero-extended (00_scope.md R7, R10). -/
abbrev word (n : Nat) : Word := BitVec.ofNat 32 n

end Sys2Proof
end

