-- ==== Sys2Proof/Machine/CrcEngine.lean ====
section
/-! DEFINITION. The CRC16 engine (40_crc.md R100 to R104). The loop's form is the spec's general-knowledge
reading (93 G1, 92 D50); log 13. -/

namespace Sys2Proof.Machine

open Sys2Proof

/-- One round: shift left, and XOR the polynomial when bit 15 was set (40_crc.md R100). -/
def crcShift (poly r : Half) : Half :=
  if r.getLsbD 15 then (r <<< 1) ^^^ poly else r <<< 1

/-- One byte: it enters the top of the register, then eight rounds (40_crc.md R100). -/
def crcByte (poly r : Half) (b : Byte) : Half :=
  Nat.repeat (crcShift poly) 8 (r ^^^ (b.setWidth 16 <<< 8))

/-- `k r`, with `r` reduced to a numeral first, so that the kernel can evaluate the engine on a whole
frame; `withRegister_eq` says it is `k r`. -/
def withRegister {α : Type} (r : Half) (k : Half → α) : α :=
  match r.toNat with
  | 0 => k 0
  | n + 1 => k (BitVec.ofNat 16 (n + 1))

/-- `crc16(seq, poly, init)` (40_crc.md R100). -/
def crc16 : List Byte → Half → Half → Half
  | [], _, r => r
  | b :: seq, poly, r => withRegister (crcByte poly r b) (crc16 seq poly)

/-- `crcv(seq, poly, init, xorout)` (40_crc.md R101). -/
def crcv (seq : List Byte) (poly init xorout : Half) : Half := crc16 seq poly init ^^^ xorout

end Sys2Proof.Machine
end

