-- ==== Sys2Proof/Config.lean ====
section
/-! DEFINITION. What an implementation fixes: the constants and OPEN parameters of 00_scope.md R6, the
shape of a FrameSpec (10_state.md R40 to R42), and the values the spec leaves free. -/

namespace Sys2Proof

/-- `FB_BYTES`, the frame buffer's size (00_scope.md R6, 10_state.md R30). Log 12. -/
def Config.fbBytes : Nat := 92

/-- The size in bytes of the register window (20_memory.md R60: offsets 0x000 to 0x1FF). -/
def Config.windowBytes : Nat := 0x200

/-- The byte that frame address `addr` holds after the `draw`-th reset: a free draw, of which nothing
can be proved (10_state.md R30, 70_reset_and_hazards.md R240; 93 U1, U2). Log 1. -/
opaque Config.drawnByte (draw addr : Nat) : Byte

/-- What a read of a frame address that the memory does not list gives. No such address is read in a
state whose memory is in its canonical form, because that form lists all of `FB`. Log 10. -/
opaque Config.unlistedByte (addr : Nat) : Byte

/-- The parameters of 00_scope.md R6 that the spec leaves OPEN, and the platform's `BASE`
(20_memory.md R60). State carries them, so that every statement about a state holds for all of them.
Log 6, log 7. -/
structure Params where
  /-- `BASE`: where the platform puts the register window (92 D4, 93 U9). -/
  base : Nat
  /-- `IDM_PKT_CRC_LO`: first byte of the IDM packet-CRC range (92 D33). -/
  pktCrcLo : Nat
  /-- `IDM_PKT_CRC_HI`: end of that half-open range (92 D33). -/
  pktCrcHi : Nat
  /-- `IDM_PKT_INIT` (92 D34). -/
  pktInit : Half
  /-- `IDM_PKT_XOROUT` (92 D34). -/
  pktXorout : Half
  /-- `IDM_SN_INIT` (92 D35). -/
  snInit : Half
  /-- `IDM_SN_XOROUT` (92 D35). -/
  snXorout : Half
  /-- `IDM_TTO_OFFSET`: byte offset of the transmit time offset (92 D36). -/
  ttoOffset : Nat
deriving DecidableEq, Repr

/-- The default parameter set of 00_scope.md R6. `BASE` has no default in the spec: 0 is a
DESIGN CHOICE, log 7. -/
def Params.default : Params where
  base := 0
  pktCrcLo := 7
  pktCrcHi := 90
  pktInit := 0xFFFF
  pktXorout := 0xFFFF
  snInit := 0xFFFF
  snXorout := 0xFFFF
  ttoOffset := 86

/-- One field descriptor of a FrameSpec: its offset and width in bytes (00_scope.md R13). -/
structure FieldSpec where
  name : String
  off : Nat
  bytes : Nat
deriving DecidableEq, Repr

/-- The CRC parameters of a FrameSpec: the half-open byte ranges fed in order to the engine, the
engine's parameters, and where the received 16-bit checksum stands (00_scope.md R13). -/
structure CrcSpec where
  ranges : List (Nat × Nat)
  poly : Half
  init : Half
  xorout : Half
  fieldOff : Nat
deriving DecidableEq, Repr

/-- A FrameSpec (00_scope.md R13; 10_state.md R40, R41). `snCrc` is IDM's second checksum. -/
structure FrameSpec where
  frameBytes : Nat
  preamble : List Byte
  crc : CrcSpec
  snCrc : Option CrcSpec
  fields : List FieldSpec
deriving DecidableEq, Repr

end Sys2Proof
end

