-- ==== Sys2Proof/Machine/FrameSpecs.lean ====
section
/-! DEFINITION. The two FrameSpec constants (10_state.md R40, R41) and when a parameter set is well
formed (R42). -/

namespace Sys2Proof.Machine

open Sys2Proof

/-- The FrameSpec of SCM+, format 0 (10_state.md R40, 44_decode.md R190). -/
def scmpSpec : FrameSpec where
  frameBytes := 16
  preamble := [0x16, 0xA3]
  crc := { ranges := [(2, 14)], poly := 0x1021, init := 0xFFFF, xorout := 0xFFFF, fieldOff := 14 }
  snCrc := none
  fields :=
    [⟨"protocol", 2, 1⟩, ⟨"scm_type", 3, 1⟩, ⟨"id", 4, 4⟩, ⟨"consumption_data", 8, 4⟩,
     ⟨"tamper", 12, 2⟩, ⟨"crc", 14, 2⟩]

/-- The FrameSpec of IDM, format 1, for a parameter set (10_state.md R41; 44_decode.md R200 to R202). -/
def idmSpec (p : Params) : FrameSpec where
  frameBytes := 92
  preamble := [0x55, 0x55, 0x16, 0xA3, 0x1C, 0x5C, 0xC6]
  crc :=
    { ranges := [(p.pktCrcLo, p.pktCrcHi)], poly := 0x1021, init := p.pktInit, xorout := p.pktXorout,
      fieldOff := 90 }
  snCrc := some
    { ranges := [(9, 13), (p.ttoOffset, p.ttoOffset + 2)], poly := 0x1021, init := p.snInit,
      xorout := p.snXorout, fieldOff := 88 }
  fields :=
    [⟨"version", 7, 1⟩, ⟨"idm_type", 8, 1⟩, ⟨"id", 9, 4⟩, ⟨"consumption_interval", 13, 1⟩,
     ⟨"programming_state", 14, 1⟩, ⟨"consumption", 25, 3⟩, ⟨"generation", 28, 3⟩, ⟨"net", 34, 4⟩,
     ⟨"intervals", 40, 48⟩, ⟨"tto", p.ttoOffset, 2⟩, ⟨"sn_crc", 88, 2⟩, ⟨"packet_crc", 90, 2⟩]

/-- A CRC's ranges and its received field lie in a frame of `n` bytes (10_state.md R42). -/
def crcSpecOk (n : Nat) (c : CrcSpec) : Bool :=
  c.ranges.all (fun r => r.1 ≤ r.2 && r.2 ≤ n) && c.fieldOff + 2 ≤ n

/-- FrameSpec well-formedness (10_state.md R42). -/
def frameSpecOk (f : FrameSpec) : Bool :=
  f.fields.all (fun d => d.off + d.bytes ≤ f.frameBytes) &&
  f.preamble.length ≤ f.frameBytes &&
  crcSpecOk f.frameBytes f.crc &&
  f.snCrc.toList.all (crcSpecOk f.frameBytes) &&
  f.frameBytes ≤ Config.fbBytes

/-- A parameter set for which a model is built (10_state.md R42, 00_scope.md R6). -/
def paramsOk (p : Params) : Bool := frameSpecOk scmpSpec && frameSpecOk (idmSpec p)

end Sys2Proof.Machine
end

