-- ==== Sys2Proof/Syntax.lean ====
section
/-! DEFINITION. The seven commands of the block, one constructor per row of spec/opcode_table.json
(30_encoding.md R80, R88). Operand fields keep the width the encoding gives them (R83 to R87). -/

namespace Sys2Proof

/-- A command of the block (30_encoding.md R80). -/
inductive Instr where
  /-- `CRC OFF, LEN` (40_crc.md R106). -/
  | crc (off len : BitVec 8)
  /-- `EXTU OFF, W`, `W` in bytes (42_extract.md R144). -/
  | extu (off : BitVec 8) (w : BitVec 3)
  /-- `EXTB BITOFF, W`, `W` in bits (42_extract.md R145). -/
  | extb (bitoff : BitVec 12) (w : BitVec 6)
  /-- `MATCH.SCMP` (41_match.md R124). -/
  | matchScmp
  /-- `MATCH.IDM` (41_match.md R125). -/
  | matchIdm
  /-- `DECODE.SCMP` (44_decode.md R194). -/
  | decodeScmp
  /-- `DECODE.IDM` (44_decode.md R206). -/
  | decodeIdm
deriving DecidableEq, Repr

end Sys2Proof
end

