-- ==== Sys2Proof/WellFormed.lean ====
section
/-! DEFINITION. Which instructions have an encoding: the field constraints of 30_encoding.md R88
(`EXTU` has 1 ≤ W ≤ 4, R84; `EXTB` has 1 ≤ W ≤ 32, R85). -/

namespace Sys2Proof

/-- The field constraint of `EXTU` (30_encoding.md R84). -/
def extuWidthOk (w : BitVec 3) : Bool := 1 ≤ w.toNat && w.toNat ≤ 4

/-- The field constraint of `EXTB` (30_encoding.md R85). -/
def extbWidthOk (w : BitVec 6) : Bool := 1 ≤ w.toNat && w.toNat ≤ 32

/-- The instruction meets its row's field constraint (30_encoding.md R88). -/
def Instr.wellFormed : Instr → Bool
  | .crc _ _ => true
  | .extu _ w => extuWidthOk w
  | .extb _ w => extbWidthOk w
  | .matchScmp => true
  | .matchIdm => true
  | .decodeScmp => true
  | .decodeIdm => true

end Sys2Proof
end

