-- ==== Sys2Proof/Decode.lean ====
section
/-! DEFINITION. Decoding a command word (30_encoding.md R82 to R92) and encoding an instruction. -/

namespace Sys2Proof

/-- Why a word is no command: the cases of 30_encoding.md R90. -/
inductive Reject where
  /-- `OP` is 0x0 or 0x6 to 0xF. -/
  | opcode
  /-- A bit that the format fixes at zero is set. -/
  | reservedBits
  /-- `W` is outside the range the format allows. -/
  | fieldWidth
  /-- `FMT` is 2 to 15. -/
  | format
deriving DecidableEq, Repr

/-- `OP` = `w[31:28]` (30_encoding.md R82). -/
def opField (w : Word) : BitVec 4 := w.extractLsb' 28 4

/-- Format R (30_encoding.md R83). -/
def decodeR (w : Word) : Except Reject Instr :=
  if w.extractLsb' 16 12 ≠ 0 then .error .reservedBits
  else .ok (.crc (w.extractLsb' 8 8) (w.extractLsb' 0 8))

/-- Format U (30_encoding.md R84). -/
def decodeU (w : Word) : Except Reject Instr :=
  if w.extractLsb' 16 12 ≠ 0 ∨ w.extractLsb' 3 5 ≠ 0 then .error .reservedBits
  else if extuWidthOk (w.extractLsb' 0 3) then .ok (.extu (w.extractLsb' 8 8) (w.extractLsb' 0 3))
  else .error .fieldWidth

/-- Format B (30_encoding.md R85). -/
def decodeB (w : Word) : Except Reject Instr :=
  if w.extractLsb' 20 8 ≠ 0 ∨ w.extractLsb' 6 2 ≠ 0 then .error .reservedBits
  else if extbWidthOk (w.extractLsb' 0 6) then .ok (.extb (w.extractLsb' 8 12) (w.extractLsb' 0 6))
  else .error .fieldWidth

/-- Format F: `scmp` for `FMT` = 0 and `idm` for `FMT` = 1 (30_encoding.md R86). -/
def decodeF (scmp idm : Instr) (w : Word) : Except Reject Instr :=
  if w.extractLsb' 4 24 ≠ 0 then .error .reservedBits
  else match (w.extractLsb' 0 4).toNat with
    | 0 => .ok scmp
    | 1 => .ok idm
    | _ => .error .format

/-- The command a 32-bit word stands for, or why it is illegal (30_encoding.md R81, R88, R90); total on
every word (R92). -/
def decode (w : Word) : Except Reject Instr :=
  match (opField w).toNat with
  | 1 => decodeR w
  | 2 => decodeU w
  | 3 => decodeB w
  | 4 => decodeF .matchScmp .matchIdm w
  | 5 => decodeF .decodeScmp .decodeIdm w
  | _ => .error .opcode

/-- The command word of an instruction, its fields from bit 31 down (30_encoding.md R83 to R86, R88). -/
def encode : Instr → Word
  | .crc off len => 0x1#4 ++ 0#12 ++ off ++ len
  | .extu off w => 0x2#4 ++ 0#12 ++ off ++ 0#5 ++ w
  | .extb bitoff w => 0x3#4 ++ 0#8 ++ bitoff ++ 0#2 ++ w
  | .matchScmp => 0x4#4 ++ 0#24 ++ 0x0#4
  | .matchIdm => 0x4#4 ++ 0#24 ++ 0x1#4
  | .decodeScmp => 0x5#4 ++ 0#24 ++ 0x0#4
  | .decodeIdm => 0x5#4 ++ 0#24 ++ 0x1#4

/-- The command word held by the low `nbits` bits of `w`, every bit above them zero. -/
def tableWord (nbits w : Nat) : Word := word (w % 2 ^ nbits)

/-- The instruction the decoder reads from the low `nbits` bits of `w`. A command word is 32 bits and
reaches the block whole, in one host write (30_encoding.md R80), so no byte order enters. -/
def decodeTableWord (nbits w : Nat) : Option Instr :=
  match decode (tableWord nbits w) with
  | .ok i => some i
  | .error _ => none

end Sys2Proof
end

