-- ==== Sys2Proof/Machine/State.lean ====
section
/-! DEFINITION. The state of the ERT frame core (10_state.md), the outcome codes of a command, the ways a
step can stop, and the state after reset. -/

namespace Sys2Proof.Machine

open Sys2Proof

/-- The outcome codes of 10_state.md R23. Codes 0x7 to 0xF are never produced, so they have no name. -/
inductive OutcomeCode where
  /-- 0x0: no command has executed since reset. -/
  | none
  /-- 0x1. -/
  | success
  /-- 0x2, 41_match.md R121. -/
  | lengthMismatch
  /-- 0x3, 41_match.md R122. -/
  | preambleMismatch
  /-- 0x4, 44_decode.md R192 and R203. -/
  | integrityFailure
  /-- 0x5, 42_extract.md R143. -/
  | rangeError
  /-- 0x6, 30_encoding.md R90. -/
  | illegalCommand
deriving DecidableEq, Repr

/-- What the frame matcher answers (41_match.md R120). -/
inductive MatchResult where
  | matched
  | lengthMismatch
  | preambleMismatch
deriving DecidableEq, Repr

/-- The registers of the host window, by name (20_memory.md R60). -/
inductive Reg where
  | cmd
  | status
  | bitlen
  | cfg
  | crcPoly
  | crcInit
  | crcXorout
  | result
  | crcRx
  | crcCalc
  | sncrcRx
  | sncrcCalc
  /-- `FIELD[k]`, k = 0 … 37 (10_state.md R33). -/
  | field (k : Fin 38)
  /-- `FBW[j]`, j = 0 … 22 (20_memory.md R62). -/
  | fbw (j : Fin 23)
deriving DecidableEq, Repr

/-- A step of the host agent (00_scope.md R14). `addr` is the platform's address, `BASE` plus the offset
of 20_memory.md R60, and `width` the access's width in bits. -/
inductive HostAccess where
  /-- `MemRead` (00_scope.md R11). -/
  | read (addr width : Nat)
  /-- `MemWrite` (00_scope.md R11). -/
  | write (addr width : Nat) (value : Word)
  /-- The platform raises the block's reset input (70_reset_and_hazards.md R240). -/
  | reset
deriving DecidableEq, Repr

/-- The block raises no exception and no outcome of a command is fatal or stops it
(60_exceptions.md R220, R224, R225), so there is no fault: the type has no constructor, and that the
machine never faults holds by its type. -/
inductive Fault where
deriving DecidableEq, Repr

/-- Why a host step is refused. 20_memory.md R61 and 93 U3 ask for the first four, 10_state.md R42 and
93 U10 for the fifth. All are safe: the spec gives such a step no meaning, so nothing can be proved of
what follows it. -/
inductive Refusal where
  /-- An instruction without a meaning; no arm of `exec` answers with it. Safe. -/
  | notModelled (mnemonic : String)
  /-- A host access whose width is not 32 bits (20_memory.md R61). Raised by `accessTarget`. Safe. -/
  | accessWidth (width : Nat)
  /-- A host access outside the block's window, below `BASE` or past offset 0x1FF (20_memory.md R61).
  Raised by `accessTarget`. Safe. -/
  | outsideWindow (addr : Nat)
  /-- A host access at an offset that is no multiple of 4 (20_memory.md R61). Raised by
  `accessTarget`. Safe. -/
  | misaligned (off : Nat)
  /-- A host access at an aligned offset where no register stands (20_memory.md R60, R61). Raised by
  `accessTarget`. Safe. -/
  | unmapped (off : Nat)
  /-- A parameter set that puts a field or a CRC range outside its frame: no model is built for it
  (10_state.md R42, 00_scope.md R6). Raised by `serve`. Safe. -/
  | illFormedParameters
deriving DecidableEq, Repr

/-- The frame buffer as (address, byte) pairs. Its canonical form (`Memory.wf`) lists the addresses 0 to
91 in rising order and no other, so that equal buffers are equal data. -/
abbrev Memory := List Host.Cell

/-- The frame buffer after the `draw`-th reset: every byte a free draw (10_state.md R30, R45;
70_reset_and_hazards.md R240). -/
def Memory.drawn (draw : Nat) : Memory :=
  (List.range Config.fbBytes).map fun a => (a, Config.drawnByte draw a)

/-- The whole state: the block's registers and frame buffer (10_state.md sections 2 to 5), its design
parameters, and the host's side of the port. -/
structure State where
  /-- `CMD` (10_state.md R21). -/
  cmd : Word
  /-- `STATUS` (10_state.md R22). -/
  status : Word
  /-- `BITLEN` (10_state.md R27). -/
  bitlen : Word
  /-- `CFG` (10_state.md R28). -/
  cfg : Word
  /-- `CRC_POLY` (10_state.md R29). -/
  crcPoly : Word
  /-- `CRC_INIT` (10_state.md R29). -/
  crcInit : Word
  /-- `CRC_XOROUT` (10_state.md R29). -/
  crcXorout : Word
  /-- `RESULT` (10_state.md R31). -/
  result : Word
  /-- `CRC_RX` (10_state.md R32). -/
  crcRx : Word
  /-- `CRC_CALC` (10_state.md R32). -/
  crcCalc : Word
  /-- `SNCRC_RX` (10_state.md R32). -/
  sncrcRx : Word
  /-- `SNCRC_CALC` (10_state.md R32). -/
  sncrcCalc : Word
  /-- `FIELD[0]` … `FIELD[37]` (10_state.md R33). -/
  fields : Vector Word 38
  /-- `FB` (10_state.md R30). -/
  frame : Memory
  /-- The OPEN parameters and `BASE`, which no access and no reset changes (10_state.md R43). Log 6. -/
  params : Params
  /-- The model's own: how many resets there have been, which picks the draw of `FB`. Log 2. -/
  draw : Nat
  /-- The model's own: the host accesses not yet performed, oldest first (20_memory.md R72). Log 3. -/
  pending : List HostAccess
  /-- The model's own: the words the host's reads returned, newest first. Log 4. -/
  reads : List Word
deriving DecidableEq, Repr

/-- The machine right after reset or power-on, with the default parameters (10_state.md R45,
70_reset_and_hazards.md R240). -/
def State.reset : State where
  cmd := 0x00000000
  status := 0x00000000
  bitlen := 0x00000000
  cfg := 0x00000003
  crcPoly := 0x00001021
  crcInit := 0x0000FFFF
  crcXorout := 0x0000FFFF
  result := 0x00000000
  crcRx := 0x00000000
  crcCalc := 0x00000000
  sncrcRx := 0x00000000
  sncrcCalc := 0x00000000
  fields := Vector.replicate 38 0x00000000
  frame := Memory.drawn 0
  params := Params.default
  draw := 0
  pending := []
  reads := []

end Sys2Proof.Machine
end

