-- ==== Sys2Proof/Machine/Flags.lean ====
section
/-! DEFINITION. The fields of `STATUS` (10_state.md R22 to R26) and of `CFG` (R28): reading one, and
writing one with every other bit unchanged. -/

namespace Sys2Proof.Machine

open Sys2Proof

/-- The four-bit code of an outcome (10_state.md R23). -/
def OutcomeCode.code : OutcomeCode → BitVec 4
  | .none => 0x0
  | .success => 0x1
  | .lengthMismatch => 0x2
  | .preambleMismatch => 0x3
  | .integrityFailure => 0x4
  | .rangeError => 0x5
  | .illegalCommand => 0x6

/-- The outcomes that set `STATUS.ERR` (10_state.md R23, R24; 60_exceptions.md R222). -/
def OutcomeCode.isError : OutcomeCode → Bool
  | .rangeError => true
  | .illegalCommand => true
  | _ => false

/-- `STATUS.OUTCOME` (10_state.md R22). -/
def statusOutcome (st : Word) : BitVec 4 := st.extractLsb' 0 4

/-- `STATUS.LASTOP` (10_state.md R22, R26). -/
def statusLastop (st : Word) : BitVec 4 := st.extractLsb' 4 4

/-- `STATUS.ERR` (10_state.md R22, R24). -/
def statusErr (st : Word) : Bool := st.getLsbD 8

/-- `STATUS.MIC` (10_state.md R22, R25). -/
def statusMic (st : Word) : Bool := st.getLsbD 9

/-- `STATUS` with `OUTCOME` written. -/
def withOutcome (c : BitVec 4) (st : Word) : Word := st.extractLsb' 4 28 ++ c

/-- `STATUS` with `LASTOP` written. -/
def withLastop (op : BitVec 4) (st : Word) : Word := st.extractLsb' 8 24 ++ op ++ st.extractLsb' 0 4

/-- `STATUS` with `ERR` written. -/
def withErr (b : Bool) (st : Word) : Word :=
  st.extractLsb' 9 23 ++ BitVec.ofBool b ++ st.extractLsb' 0 8

/-- `STATUS` with `MIC` written. -/
def withMic (b : Bool) (st : Word) : Word :=
  st.extractLsb' 10 22 ++ BitVec.ofBool b ++ st.extractLsb' 0 9

/-- `STATUS` after `finish(o)`: the outcome is written, and `ERR` is set by an error outcome and left by
every other (00_scope.md R11, 60_exceptions.md R222). -/
def finishStatus (o : OutcomeCode) (st : Word) : Word :=
  if o.isError then withErr true (withOutcome o.code st) else withOutcome o.code st

/-- `CFG.SCMP_CRC_EN` (10_state.md R28). -/
def scmpCrcEn (cfg : Word) : Bool := cfg.getLsbD 0

/-- `CFG.IDM_CRC_EN` (10_state.md R28). -/
def idmCrcEn (cfg : Word) : Bool := cfg.getLsbD 1

/-- Bits [15:0] of a register whose upper half is reserved (10_state.md R27, R29, R32). -/
def lowHalf (w : Word) : Half := w.extractLsb' 0 16

/-- A 16-bit value in a register, zero-extended (10_state.md R31, R32). -/
def ofHalf (h : Half) : Word := h.setWidth 32

end Sys2Proof.Machine
end

