-- ==== Sys2Proof/Machine/Ops.lean ====
section
/-! DEFINITION. The named operations over the frame buffer and the registers: reading and writing a frame
byte and a frame word (20_memory.md R62), ending a command (`finish`, 00_scope.md R11), latching a
command word (30_encoding.md R81), the decode prologue (44_decode.md R181), the host's view of each
register (10_state.md section 2), and the reset event (70_reset_and_hazards.md R240). -/

namespace Sys2Proof.Machine

open Sys2Proof

/-! ### The frame buffer -/

/-- `FB[a]` (00_scope.md R8). -/
def Memory.read : Memory → Nat → Byte
  | [], a => Config.unlistedByte a
  | (b, v) :: m, a => if a = b then v else Memory.read m a

/-- `FB[a] <- v`, the list kept in rising order of address (20_memory.md R62). -/
def Memory.write : Memory → Nat → Byte → Memory
  | [], a, v => [(a, v)]
  | (b, x) :: m, a, v =>
    if a = b then (a, v) :: m
    else if a < b then (a, v) :: (b, x) :: m
    else (b, x) :: Memory.write m a v

/-- The canonical form: the addresses 0 to 91, each once, in rising order (10_state.md R30). -/
def Memory.wf (m : Memory) : Bool := m.map Prod.fst == List.range Config.fbBytes

/-- The word `FBW[j]`, most significant byte first (20_memory.md R62). -/
def Memory.readWord (m : Memory) (j : Nat) : Word :=
  m.read (4 * j) ++ m.read (4 * j + 1) ++ m.read (4 * j + 2) ++ m.read (4 * j + 3)

/-- The effect of a host write of `v` to `FBW[j]` (20_memory.md R62). -/
def Memory.writeWord (m : Memory) (j : Nat) (v : Word) : Memory :=
  (((m.write (4 * j) (v.extractLsb' 24 8)).write (4 * j + 1) (v.extractLsb' 16 8)).write
    (4 * j + 2) (v.extractLsb' 8 8)).write (4 * j + 3) (v.extractLsb' 0 8)

/-! ### Ending and starting a command -/

/-- `finish(o)` (00_scope.md R11). The block has no trap (60_exceptions.md R225): this is all that an
outcome, an error among them, does. -/
def finish (o : OutcomeCode) (s : State) : State :=
  { s with status := finishStatus o s.status }

/-- A command's last statement: it ends with outcome `o`, and the machine goes on
(60_exceptions.md R224). -/
def complete (o : OutcomeCode) (s : State) : Host.Outcome State Fault Refusal :=
  .next (finish o s)

/-- The first two statements of command dispatch: `CMD <- w` and `STATUS.LASTOP <- w[31:28]`
(30_encoding.md R81, 10_state.md R26). -/
def latch (w : Word) (s : State) : State :=
  { s with cmd := w, status := withLastop (opField w) s.status }

/-- Write `RESULT` (10_state.md R31). -/
def setResult (v : Word) (s : State) : State := { s with result := v }

/-! ### Registers that only `DECODE` writes -/

/-- A field register file whose first registers hold the given values and whose others hold 0
(10_state.md R33). -/
def fieldFile (l : List Word) : Vector Word 38 :=
  Vector.mk (List.toArray ((List.range 38).map fun k => l.getD k 0)) (by simp)

/-- Write `FIELD[*]` (10_state.md R33). -/
def setFields (l : List Word) (s : State) : State := { s with fields := fieldFile l }

/-- Write the four diagnostic registers (10_state.md R32). -/
def setDiagnostics (received computed snRx snComp : Half) (s : State) : State :=
  { s with
    crcRx := ofHalf received, crcCalc := ofHalf computed, sncrcRx := ofHalf snRx,
    sncrcCalc := ofHalf snComp }

/-- Write `STATUS.MIC` (10_state.md R25). -/
def setMic (b : Bool) (s : State) : State := { s with status := withMic b s.status }

/-- The decode prologue: `FIELD[*]`, the diagnostic registers and `STATUS.MIC` become 0
(44_decode.md R181). -/
def decodePrologue (s : State) : State :=
  setMic false (setDiagnostics 0 0 0 0 (setFields [] s))

/-! ### The host's view of the registers -/

/-- The value a host read of a register returns (10_state.md section 2, 20_memory.md R62). -/
def readReg (r : Reg) (s : State) : Word :=
  match r with
  | .cmd => s.cmd
  | .status => s.status
  | .bitlen => s.bitlen
  | .cfg => s.cfg
  | .crcPoly => s.crcPoly
  | .crcInit => s.crcInit
  | .crcXorout => s.crcXorout
  | .result => s.result
  | .crcRx => s.crcRx
  | .crcCalc => s.crcCalc
  | .sncrcRx => s.sncrcRx
  | .sncrcCalc => s.sncrcCalc
  | .field k => s.fields[k]
  | .fbw j => s.frame.readWord j.val

/-- What a host write of `v` stores: reserved bits are dropped and read-only registers keep their value
(10_state.md R27 to R29, R34). For `CMD` this is the latching alone (R21, R26); executing the word is
`command`. -/
def writeReg (r : Reg) (v : Word) (s : State) : State :=
  match r with
  | .cmd => latch v s
  | .bitlen => { s with bitlen := ofHalf (lowHalf v) }
  | .cfg => { s with cfg := (v.extractLsb' 0 2).setWidth 32 }
  | .crcPoly => { s with crcPoly := ofHalf (lowHalf v) }
  | .crcInit => { s with crcInit := ofHalf (lowHalf v) }
  | .crcXorout => { s with crcXorout := ofHalf (lowHalf v) }
  | .fbw j => { s with frame := s.frame.writeWord j.val v }
  | .status => s
  | .result => s
  | .crcRx => s
  | .crcCalc => s
  | .sncrcRx => s
  | .sncrcCalc => s
  | .field _ => s

/-- The reset event: every register of the block takes its reset value and every byte of `FB` is drawn
anew; no command executes, the design parameters stay, and the host keeps what it has read and has yet to
do (70_reset_and_hazards.md R240, R241; 10_state.md R43). Log 2, log 14. -/
def hostReset (s : State) : State :=
  { State.reset with
    frame := Memory.drawn (s.draw + 1)
    params := s.params
    draw := s.draw + 1
    pending := s.pending
    reads := s.reads }

end Sys2Proof.Machine
end

