-- ==== Sys2Proof/Machine/Operands.lean ====
section
/-! DEFINITION. What a command reads of the frame: byte ranges (00_scope.md R8), stream bits (R9), byte
fields and bit fields (42_extract.md R140, R141), the declared row (R143), and a FrameSpec's computed and
received checksums (44_decode.md R191, R200 to R202). -/

namespace Sys2Proof.Machine

open Sys2Proof

/-- `FB[a..b)` (00_scope.md R8). -/
def byteRange (m : Memory) (a b : Nat) : List Byte :=
  (List.range (b - a)).map fun j => m.read (a + j)

/-- Stream bit `i` (00_scope.md R9, 42_extract.md R141). -/
def streamBit (m : Memory) (i : Nat) : Nat := ((m.read (i / 8)).toNat >>> (7 - i % 8)) &&& 1

/-- `be(off, w)` (42_extract.md R140). -/
def be (m : Memory) (off w : Nat) : Nat :=
  ((List.range w).map fun j => (m.read (off + j)).toNat <<< (8 * (w - 1 - j))).sum

/-- `bits(pos, w)` (42_extract.md R141). -/
def bits (m : Memory) (pos w : Nat) : Nat :=
  ((List.range w).map fun j => streamBit m (pos + j) <<< (w - 1 - j)).sum

/-- The declared row in whole bytes, `avail` (42_extract.md R143). -/
def availBytes (s : State) : Nat := min Config.fbBytes ((lowHalf s.bitlen).toNat / 8)

/-- The checksum a CrcSpec computes over the frame, after the final XOR (40_crc.md R101, R105;
44_decode.md R191, R200 to R202). -/
def computedCrc (m : Memory) (c : CrcSpec) : Half :=
  crcv (c.ranges.flatMap fun r => byteRange m r.1 r.2) c.poly c.init c.xorout

/-- The checksum the frame carries, big-endian (44_decode.md R191, R200, R202). -/
def receivedCrc (m : Memory) (c : CrcSpec) : Half := BitVec.ofNat 16 (be m c.fieldOff 2)

end Sys2Proof.Machine
end

