-- ==== Sys2Proof/Machine/Crc.lean ====
section
/-! DEFINITION. The `CRC` command (40_crc.md R106). -/

namespace Sys2Proof.Machine

open Sys2Proof

/-- `CRC OFF, LEN` (40_crc.md R106). -/
def execCrc (off len : BitVec 8) (s : State) : Host.Outcome State Fault Refusal :=
  if off.toNat + len.toNat > availBytes s then complete .rangeError s
  else
    complete .success
      (setResult
        (ofHalf (crcv (byteRange s.frame off.toNat (off.toNat + len.toNat))
          (lowHalf s.crcPoly) (lowHalf s.crcInit) (lowHalf s.crcXorout))) s)

end Sys2Proof.Machine
end

