-- ==== Sys2Proof/Machine/Matcher.lean ====
section
/-! DEFINITION. The frame matcher (41_match.md R120 to R123) and the `MATCH` commands (R124, R125). -/

namespace Sys2Proof.Machine

open Sys2Proof

/-- `match(S)`: the length check, and only then the preamble check (41_match.md R120). -/
def matchFrame (f : FrameSpec) (s : State) : MatchResult :=
  if (lowHalf s.bitlen).toNat ≠ 8 * f.frameBytes then .lengthMismatch
  else if byteRange s.frame 0 f.preamble.length ≠ f.preamble then .preambleMismatch
  else .matched

/-- The outcome a `MATCH` command ends with (41_match.md R124, R125). -/
def MatchResult.outcome : MatchResult → OutcomeCode
  | .matched => .success
  | .lengthMismatch => .lengthMismatch
  | .preambleMismatch => .preambleMismatch

/-- `MATCH.SCMP` (41_match.md R124). -/
def execMatchScmp (s : State) : Host.Outcome State Fault Refusal :=
  complete (matchFrame scmpSpec s).outcome s

/-- `MATCH.IDM` (41_match.md R125). -/
def execMatchIdm (s : State) : Host.Outcome State Fault Refusal :=
  complete (matchFrame (idmSpec s.params) s).outcome s

end Sys2Proof.Machine
end

