-- ==== Sys2Proof/Machine/Decoder.lean ====
section
/-! DEFINITION. The decoder dispatcher (44_decode.md R180 to R184) and the `DECODE` commands
(R190 to R194, R200 to R206). -/

namespace Sys2Proof.Machine

open Sys2Proof

/-- The computed serial-number CRC, 0 for a format without one (10_state.md R32, 44_decode.md R202). -/
def snComputed (f : FrameSpec) (m : Memory) : Half := (f.snCrc.map (computedCrc m)).getD 0

/-- The received serial-number CRC, 0 for a format without one (10_state.md R32, 44_decode.md R202). -/
def snReceived (f : FrameSpec) (m : Memory) : Half := (f.snCrc.map (receivedCrc m)).getD 0

/-- Every checksum of the format agrees (44_decode.md R192, R203). -/
def checksumsAgree (f : FrameSpec) (m : Memory) : Bool :=
  computedCrc m f.crc == receivedCrc m f.crc && snComputed f m == snReceived f m

/-- The diagnostic writes of `VALIDATING` (10_state.md R32; 44_decode.md R191, R200, R202). -/
def writeDiagnostics (f : FrameSpec) (s : State) : State :=
  setDiagnostics (receivedCrc s.frame f.crc) (computedCrc s.frame f.crc)
    (snReceived f s.frame) (snComputed f s.frame) s

/-- The dispatcher: prologue, `MATCHING`, `VALIDATING`, extraction, `DONE` (44_decode.md R180 to R184).
`enforced` is the format's enable bit and `extract` its field list. -/
def decodeFrame (f : FrameSpec) (enforced : Bool) (extract : Memory → List Word) (s : State) :
    Host.Outcome State Fault Refusal :=
  let s := decodePrologue s
  match matchFrame f s with
  | .lengthMismatch => complete .lengthMismatch s
  | .preambleMismatch => complete .preambleMismatch s
  | .matched =>
    let s := writeDiagnostics f s
    if enforced && !checksumsAgree f s.frame then complete .integrityFailure s
    else complete .success (setMic enforced (setFields (extract s.frame) s))

/-- The SCM+ field registers from `FIELD[0]` up (42_extract.md R150, 44_decode.md R193). -/
def scmpFields (m : Memory) : List Word :=
  [word (be m 2 1), word (be m 3 1), word (be m 4 4), word (be m 8 4), word (be m 12 2),
   ofHalf (receivedCrc m scmpSpec.crc), ofHalf (computedCrc m scmpSpec.crc)]

/-- `interval[j]` (42_extract.md R146). -/
def idmInterval (m : Memory) (j : Nat) : Word := word (bits m (320 + 14 * j) 14)

/-- The IDM field registers from `FIELD[0]` up (42_extract.md R146, R147, R151; 44_decode.md R205). -/
def idmFields (p : Params) (m : Memory) : List Word :=
  [word (be m 9 4), word (be m 7 1), word (be m 8 1 &&& 0x0F), word (be m 13 1), word (be m 14 1),
   word (be m 28 3), word (be m 25 3), word (be m 34 4), word (be m 88 2), word (be m 90 2),
   word (be m p.ttoOffset 2)] ++ (List.range 27).map (idmInterval m)

/-- `DECODE.SCMP` (44_decode.md R194). -/
def execDecodeScmp (s : State) : Host.Outcome State Fault Refusal :=
  decodeFrame scmpSpec (scmpCrcEn s.cfg) scmpFields s

/-- `DECODE.IDM` (44_decode.md R206). -/
def execDecodeIdm (s : State) : Host.Outcome State Fault Refusal :=
  decodeFrame (idmSpec s.params) (idmCrcEn s.cfg) (idmFields s.params) s

end Sys2Proof.Machine
end

