-- ==== Sys2Proof/Machine/Extract.lean ====
section
/-! DEFINITION. The extraction commands `EXTU` and `EXTB` (42_extract.md R143 to R145). An operand width
outside the row's constraint belongs to no legal word; such a term does what its word does, which is
`ILLEGAL_COMMAND` (30_encoding.md R90). Log 11. -/

namespace Sys2Proof.Machine

open Sys2Proof

/-- `EXTU OFF, W` (42_extract.md R144). -/
def execExtu (off : BitVec 8) (w : BitVec 3) (s : State) : Host.Outcome State Fault Refusal :=
  if !extuWidthOk w then complete .illegalCommand s
  else if off.toNat + w.toNat > availBytes s then complete .rangeError s
  else complete .success (setResult (word (be s.frame off.toNat w.toNat)) s)

/-- `EXTB BITOFF, W` (42_extract.md R145). -/
def execExtb (bitoff : BitVec 12) (w : BitVec 6) (s : State) : Host.Outcome State Fault Refusal :=
  if !extbWidthOk w then complete .illegalCommand s
  else if bitoff.toNat + w.toNat > 8 * availBytes s then complete .rangeError s
  else complete .success (setResult (word (bits s.frame bitoff.toNat w.toNat)) s)

end Sys2Proof.Machine
end

