-- ==== Sys2Proof/Machine/Dispatch.lean ====
section
/-! DEFINITION. One arm per command (30_encoding.md R81). -/

namespace Sys2Proof.Machine

open Sys2Proof

-- The meaning of a legal command, after `CMD` and `STATUS.LASTOP` are latched (30_encoding.md R81).
def exec (i : Instr) (s : State) : Host.Outcome State Fault Refusal :=
  match i with
  | .crc off len => Sys2Proof.Machine.execCrc off len s
  | .extu off w => Sys2Proof.Machine.execExtu off w s
  | .extb bitoff w => Sys2Proof.Machine.execExtb bitoff w s
  | .matchScmp => Sys2Proof.Machine.execMatchScmp s
  | .matchIdm => Sys2Proof.Machine.execMatchIdm s
  | .decodeScmp => Sys2Proof.Machine.execDecodeScmp s
  | .decodeIdm => Sys2Proof.Machine.execDecodeIdm s

end Sys2Proof.Machine
end

