-- ==== Sys2Proof/Machine/Port.lean ====
section
/-! DEFINITION. The host port: which register an access reaches (20_memory.md R60, R61), executing a
command word (30_encoding.md R81), and what one host access does (10_state.md R21, R34;
20_memory.md R69, R72). -/

namespace Sys2Proof.Machine

open Sys2Proof

/-- The offset of a register in the window (20_memory.md R60). -/
def Reg.offset : Reg → Nat
  | .cmd => 0x000
  | .status => 0x004
  | .bitlen => 0x008
  | .cfg => 0x00C
  | .crcPoly => 0x010
  | .crcInit => 0x014
  | .crcXorout => 0x018
  | .result => 0x01C
  | .crcRx => 0x020
  | .crcCalc => 0x024
  | .sncrcRx => 0x028
  | .sncrcCalc => 0x02C
  | .field k => 0x040 + 4 * k.val
  | .fbw j => 0x100 + 4 * j.val

/-- The register at an aligned offset, none where the map has a hole (20_memory.md R60). -/
def regAt (off : Nat) : Option Reg :=
  match off with
  | 0x000 => some .cmd
  | 0x004 => some .status
  | 0x008 => some .bitlen
  | 0x00C => some .cfg
  | 0x010 => some .crcPoly
  | 0x014 => some .crcInit
  | 0x018 => some .crcXorout
  | 0x01C => some .result
  | 0x020 => some .crcRx
  | 0x024 => some .crcCalc
  | 0x028 => some .sncrcRx
  | 0x02C => some .sncrcCalc
  | _ =>
    if off < 0x040 then none
    else if h : (off - 0x040) / 4 < 38 then some (.field ⟨(off - 0x040) / 4, h⟩)
    else if off < 0x100 then none
    else if h : (off - 0x100) / 4 < 23 then some (.fbw ⟨(off - 0x100) / 4, h⟩)
    else none

/-- The register a host access reaches, or why the access is refused (20_memory.md R61). Log 9. -/
def accessTarget (base addr width : Nat) : Except Refusal Reg :=
  if width ≠ 32 then .error (.accessWidth width)
  else if addr < base ∨ base + Config.windowBytes ≤ addr then .error (.outsideWindow addr)
  else if (addr - base) % 4 ≠ 0 then .error (.misaligned (addr - base))
  else match regAt (addr - base) with
    | some r => .ok r
    | none => .error (.unmapped (addr - base))

/-- A host write of `w` to `CMD`: latch it, then execute it, or finish with `ILLEGAL_COMMAND`
(30_encoding.md R81, R90; 10_state.md R21, R26). Log 17. -/
def command (w : Word) (s : State) : Host.Outcome State Fault Refusal :=
  match decode w with
  | .ok i => exec i (writeReg .cmd w s)
  | .error _ => complete .illegalCommand (writeReg .cmd w s)

/-- A host write to a register (10_state.md R21, R34). -/
def hostWrite (r : Reg) (v : Word) (s : State) : Host.Outcome State Fault Refusal :=
  match r with
  | .cmd => command v s
  | r => .next (writeReg r v s)

/-- A host read of a register: the host gets the value and the block does not change
(20_memory.md R69). -/
def hostRead (r : Reg) (s : State) : State := { s with reads := readReg r s :: s.reads }

/-- One host access (20_memory.md R60, R61, R72). A model is built for a well-formed parameter set only
(10_state.md R42). -/
def serve (a : HostAccess) (s : State) : Host.Outcome State Fault Refusal :=
  if !paramsOk s.params then .refused .illFormedParameters
  else match a with
    | .read addr width =>
      match accessTarget s.params.base addr width with
      | .ok r => .next (hostRead r s)
      | .error e => .refused e
    | .write addr width v =>
      match accessTarget s.params.base addr width with
      | .ok r => hostWrite r v s
      | .error e => .refused e
    | .reset => .next (hostReset s)

/-- The next host access, if there is one; with none pending the block waits
(70_reset_and_hazards.md R242, 20_memory.md R72). Log 3, log 5. -/
def serveNext (s : State) : Host.Outcome State Fault Refusal :=
  match s.pending with
  | [] => .next s
  | a :: rest => serve a { s with pending := rest }

/-- The machine built for a parameter set, after reset; an ill-formed set is refused at configuration
time, so there is none for it (00_scope.md R6, 10_state.md R42, 93 U10). Log 8. -/
def configure (p : Params) : Option State :=
  if paramsOk p then some { State.reset with params := p } else none

/-- The host access that runs a command word: a 32-bit write to `CMD` (30_encoding.md R93). -/
def commandAccess (s : State) (w : Word) : HostAccess :=
  .write (s.params.base + Reg.offset .cmd) 32 w

end Sys2Proof.Machine
end

