-- ==== Sys2Proof/Machine/Step.lean ====
section
/-! DEFINITION. One step of the machine: one host access, and inside it at most one command, atomically
(00_scope.md R12, R14; 20_memory.md R72). -/

namespace Sys2Proof.Machine

open Sys2Proof

/-- One step: the oldest pending host access is performed (20_memory.md R72). -/
def step (s : State) : Host.Outcome State Fault Refusal := serveNext s

/-- The state in which the very next step is the host's write of this command word to `CMD`: that write
is put before every access still pending. Log 3. -/
def State.withFetchWord (s : State) (nbits w : Nat) : State :=
  { s with pending := commandAccess s (tableWord nbits w) :: s.pending }

end Sys2Proof.Machine
end

