-- ==== Sys2Proof/Machine/Assembler.lean ====
section
/-! DEFINITION. The host's assembler: command and host-access lines and the pseudo-instructions, each
standing for host accesses (30_encoding.md R93 to R95). It is the host's, not the block's (92 D17). -/

namespace Sys2Proof.Machine

open Sys2Proof

/-- Why a line is refused. 30_encoding.md R93: an operand outside its range is an assembly error and is
never truncated. -/
inductive AsmError where
  /-- An operand outside the range the line states. -/
  | operandRange
  /-- A line of no known form. -/
  | malformed
deriving DecidableEq, Repr

/-- The line forms of 30_encoding.md R93 (commands and `.cmd`), R94 (`wr`, `rd`) and R95 (pseudo). -/
inductive AsmLine where
  | crc (off len : Nat)
  | extu (off w : Nat)
  | extb (bitoff w : Nat)
  | matchScmp
  | matchIdm
  | decodeScmp
  | decodeIdm
  | rawCmd (v : Nat)
  | wr (r : Reg) (v : Nat)
  | rd (r : Reg)
  | crcparams (poly init xorout : Nat)
  | ldrow (n : Nat) (row : List Nat)
  | exthi (off : Nat)
  | extlo (off : Nat)
  | extiv (j : Nat)
  | nop
deriving DecidableEq, Repr

/-- `wr REG, V` as a host access (30_encoding.md R94). -/
def asmWrite (base : Nat) (r : Reg) (v : Word) : HostAccess := .write (base + r.offset) 32 v

/-- The accesses of a line whose operands are in range, an assembly error otherwise (30_encoding.md R93). -/
def inRange (ok : Prop) [Decidable ok] (l : List HostAccess) : Except AsmError (List HostAccess) :=
  if ok then .ok l else .error .operandRange

/-- A command line: one write of its word to `CMD` (30_encoding.md R93). -/
def asmCommand (base : Nat) (i : Instr) : List HostAccess := [asmWrite base .cmd (encode i)]

/-- `extb BITOFF, W` (30_encoding.md R93). -/
def asmExtb (base bitoff w : Nat) : Except AsmError (List HostAccess) :=
  inRange (bitoff < 4096 ∧ 1 ≤ w ∧ w ≤ 32)
    (asmCommand base (.extb (BitVec.ofNat 12 bitoff) (BitVec.ofNat 6 w)))

/-- The word `FBW[j]` of a row, missing bytes 0 (30_encoding.md R95). -/
def rowWord (row : List Nat) (j : Nat) : Word :=
  BitVec.ofNat 8 (row.getD (4 * j) 0) ++ BitVec.ofNat 8 (row.getD (4 * j + 1) 0) ++
  BitVec.ofNat 8 (row.getD (4 * j + 2) 0) ++ BitVec.ofNat 8 (row.getD (4 * j + 3) 0)

/-- `ldrow n, B0 …`: the frame words the row covers, then `BITLEN` (30_encoding.md R95). Log 19. -/
def asmLdrow (base n : Nat) (row : List Nat) : Except AsmError (List HostAccess) :=
  inRange (n < 2 ^ 32 ∧ row.length ≤ Config.fbBytes ∧ ∀ b ∈ row, b < 256)
    (((List.finRange 23).filter (fun j => decide (4 * j.val < row.length))).map
        (fun j => asmWrite base (.fbw j) (rowWord row j.val))
      ++ [asmWrite base .bitlen (word n)])

/-- The host accesses a line stands for (30_encoding.md R93 to R95). -/
def assemble (base : Nat) : AsmLine → Except AsmError (List HostAccess)
  | .crc off len =>
    inRange (off < 256 ∧ len < 256)
      (asmCommand base (.crc (BitVec.ofNat 8 off) (BitVec.ofNat 8 len)))
  | .extu off w =>
    inRange (off < 256 ∧ 1 ≤ w ∧ w ≤ 4)
      (asmCommand base (.extu (BitVec.ofNat 8 off) (BitVec.ofNat 3 w)))
  | .extb bitoff w => asmExtb base bitoff w
  | .matchScmp => .ok (asmCommand base .matchScmp)
  | .matchIdm => .ok (asmCommand base .matchIdm)
  | .decodeScmp => .ok (asmCommand base .decodeScmp)
  | .decodeIdm => .ok (asmCommand base .decodeIdm)
  | .rawCmd v => inRange (v < 2 ^ 32) [asmWrite base .cmd (word v)]
  | .wr r v => inRange (v < 2 ^ 32) [asmWrite base r (word v)]
  | .rd r => .ok [.read (base + r.offset) 32]
  | .crcparams p i x =>
    inRange (p < 2 ^ 32 ∧ i < 2 ^ 32 ∧ x < 2 ^ 32)
      [asmWrite base .crcPoly (word p), asmWrite base .crcInit (word i),
       asmWrite base .crcXorout (word x)]
  | .ldrow n row => asmLdrow base n row
  | .exthi off => asmExtb base (8 * off) 4
  | .extlo off => asmExtb base (8 * off + 4) 4
  | .extiv j => if j ≤ 26 then asmExtb base (320 + 14 * j) 14 else .error .operandRange
  | .nop => .ok []

/-! ### Reading a line -/

/-- The token collected so far, if any, before the tokens that follow. -/
def flushToken (cur : List Char) (rest : List String) : List String :=
  if cur.isEmpty then rest else String.ofList cur.reverse :: rest

/-- The tokens of a line: `;` begins a comment (30_encoding.md R93). The spec does not say what separates
tokens: that a space, a tab and a carriage return do, and that a comma is a token of its own, is a
DESIGN CHOICE, log 19. -/
def lexLine : List Char → List Char → List String
  | [], cur => flushToken cur []
  | c :: cs, cur =>
    if c = ';' then flushToken cur []
    else if c = ' ' ∨ c = '\t' ∨ c = '\r' then flushToken cur (lexLine cs [])
    else if c = ',' then flushToken cur ("," :: lexLine cs [])
    else lexLine cs (c :: cur)

/-- A digit's value in a base up to 16; letters in either case are a DESIGN CHOICE, log 19. -/
def digitValue (base : Nat) (c : Char) : Option Nat :=
  let n := c.toNat
  let v :=
    if 48 ≤ n ∧ n ≤ 57 then n - 48
    else if 97 ≤ n ∧ n ≤ 102 then n - 87
    else if 65 ≤ n ∧ n ≤ 70 then n - 55
    else 16
  if v < base then some v else none

/-- The number a non-empty run of digits writes. -/
def digitsValue (base : Nat) : List Char → Nat → Option Nat
  | [], acc => some acc
  | c :: cs, acc =>
    match digitValue base c with
    | some v => digitsValue base cs (base * acc + v)
    | none => none

/-- A number, decimal or `0x` hexadecimal (30_encoding.md R93). Log 19. -/
def parseNumber (t : String) : Option Nat :=
  match t.toList with
  | [] => none
  | '0' :: 'x' :: c :: cs => digitsValue 16 (c :: cs) 0
  | cs => digitsValue 10 cs 0

/-- A byte of a row, two hexadecimal digits (30_encoding.md R95; 95_test_vectors.md section 4). Log 19. -/
def parseRowByte (t : String) : Option Nat :=
  match t.toList with
  | [a, b] => digitsValue 16 [a, b] 0
  | _ => none

/-- The decimal number before a closing bracket that ends the name. Log 19. -/
def parseIndex (cs : List Char) : Option Nat :=
  match cs.reverse with
  | ']' :: d :: ds => digitsValue 10 (d :: ds).reverse 0
  | _ => none

/-- A register name of 20_memory.md R60 (30_encoding.md R94). -/
def parseReg (t : String) : Option Reg :=
  match t with
  | "CMD" => some .cmd
  | "STATUS" => some .status
  | "BITLEN" => some .bitlen
  | "CFG" => some .cfg
  | "CRC_POLY" => some .crcPoly
  | "CRC_INIT" => some .crcInit
  | "CRC_XOROUT" => some .crcXorout
  | "RESULT" => some .result
  | "CRC_RX" => some .crcRx
  | "CRC_CALC" => some .crcCalc
  | "SNCRC_RX" => some .sncrcRx
  | "SNCRC_CALC" => some .sncrcCalc
  | t =>
    match t.toList with
    | 'F' :: 'I' :: 'E' :: 'L' :: 'D' :: '[' :: cs =>
      (parseIndex cs).bind fun k => if h : k < 38 then some (.field ⟨k, h⟩) else none
    | 'F' :: 'B' :: 'W' :: '[' :: cs =>
      (parseIndex cs).bind fun j => if h : j < 23 then some (.fbw ⟨j, h⟩) else none
    | _ => none

/-- A line's form, from its tokens; none of an empty or comment-only line (30_encoding.md R93 to R95). The
commas stand where the spec's lines write them; any other token sequence is malformed. Log 19. -/
def parseTokens (ts : List String) : Option (Option AsmLine) :=
  match ts with
  | [] => some none
  | ["match.scmp"] => some (some .matchScmp)
  | ["match.idm"] => some (some .matchIdm)
  | ["decode.scmp"] => some (some .decodeScmp)
  | ["decode.idm"] => some (some .decodeIdm)
  | ["nop"] => some (some .nop)
  | [".cmd", v] => (parseNumber v).map fun v => some (.rawCmd v)
  | ["exthi", a] => (parseNumber a).map fun a => some (.exthi a)
  | ["extlo", a] => (parseNumber a).map fun a => some (.extlo a)
  | ["extiv", a] => (parseNumber a).map fun a => some (.extiv a)
  | ["rd", r] => (parseReg r).map fun r => some (.rd r)
  | ["wr", r, ",", v] =>
    (parseReg r).bind fun r => (parseNumber v).map fun v => some (.wr r v)
  | ["crc", a, ",", b] =>
    (parseNumber a).bind fun a => (parseNumber b).map fun b => some (.crc a b)
  | ["extu", a, ",", b] =>
    (parseNumber a).bind fun a => (parseNumber b).map fun b => some (.extu a b)
  | ["extb", a, ",", b] =>
    (parseNumber a).bind fun a => (parseNumber b).map fun b => some (.extb a b)
  | ["crcparams", p, ",", i, ",", x] =>
    (parseNumber p).bind fun p => (parseNumber i).bind fun i => (parseNumber x).map fun x =>
      some (.crcparams p i x)
  | "ldrow" :: n :: "," :: row =>
    (parseNumber n).bind fun n => (row.mapM parseRowByte).map fun row => some (.ldrow n row)
  | _ => none

/-- One line of text, as host accesses (30_encoding.md R93 to R95). -/
def assembleText (base : Nat) (line : String) : Except AsmError (List HostAccess) :=
  match parseTokens (lexLine line.toList []) with
  | some (some l) => assemble base l
  | some none => .ok []
  | none => .error .malformed

/-- A program, one command per line (30_encoding.md R93): the accesses of its lines in order. One line in
error refuses the program (log 19). -/
def assembleProgram (base : Nat) : List String → Except AsmError (List HostAccess)
  | [] => .ok []
  | l :: ls =>
    match assembleText base l, assembleProgram base ls with
    | .ok a, .ok b => .ok (a ++ b)
    | .error e, _ => .error e
    | .ok _, .error e => .error e

end Sys2Proof.Machine
end

