-- ==== Sys2Proof/Machine/Record.lean ====
section
/-! DEFINITION. The record view: what the host makes of the block's registers and frame buffer after a
successful decode (43_record.md R160 to R166). It reads the state and changes nothing (R166). -/

namespace Sys2Proof.Machine

open Sys2Proof

/-- A record entry's value: an unsigned integer or a string (43_record.md R160, 92 D47). -/
inductive RecordValue where
  | number (v : Word)
  | text (t : String)
deriving DecidableEq, Repr

/-- A lower-case hexadecimal digit (43_record.md R163). -/
def hexChar (n : Nat) : Char := Char.ofNat (if n < 10 then 48 + n else 87 + n)

/-- The characters of `hexdump(n)` (43_record.md R163). -/
def hexdumpChars (m : Memory) (n : Nat) : List Char :=
  (byteRange m 0 n).flatMap fun b => [hexChar (b.toNat / 16), hexChar (b.toNat % 16)]

/-- `hexdump(n)`: high nibble then low nibble of each byte of `FB[0..n)` (43_record.md R163). -/
def hexdump (m : Memory) (n : Nat) : String := String.ofList (hexdumpChars m n)

/-- `FIELD[k]` as a record value, 0 past the file's end (10_state.md R33). -/
def fieldValue (s : State) (k : Nat) : RecordValue := .number (s.fields.toList.getD k 0)

/-- The integrity tag, present when `STATUS.MIC` = 1 (43_record.md R164). -/
def micEntry (s : State) : List (String × RecordValue) :=
  if statusMic s.status then [("mic", .text "CRC")] else []

/-- The SCM+ record (43_record.md R161). -/
def scmpRecord (s : State) : List (String × RecordValue) :=
  [("model", .text "SCMplus"), ("protocol", fieldValue s 0), ("scm_type", fieldValue s 1),
   ("id", fieldValue s 2), ("consumption_data", fieldValue s 3), ("tamper", fieldValue s 4),
   ("crc", fieldValue s 5), ("calc_crc", fieldValue s 6), ("codes", .text (hexdump s.frame 16))]
    ++ micEntry s

/-- The IDM record (43_record.md R162); it omits the intervals and the transmit time offset (R165). -/
def idmRecord (s : State) : List (String × RecordValue) :=
  [("model", .text "IDM"), ("id", fieldValue s 0), ("version", fieldValue s 1),
   ("idm_type", fieldValue s 2), ("consumption_interval", fieldValue s 3),
   ("programming_state", fieldValue s 4), ("generation", fieldValue s 5),
   ("consumption", fieldValue s 6), ("net", fieldValue s 7), ("sn_crc", fieldValue s 8),
   ("packet_crc", fieldValue s 9), ("codes", .text (hexdump s.frame 92))]
    ++ micEntry s

/-- `record()`: defined only while the last command is a `DECODE` that ended in `SUCCESS`; `CMD[3:0]`
names the format (43_record.md R160; 93 U13). Log 18. -/
def record (s : State) : Option (List (String × RecordValue)) :=
  if statusLastop s.status = 5 ∧ statusOutcome s.status = OutcomeCode.success.code then
    match (s.cmd.extractLsb' 0 4).toNat with
    | 0 => some (scmpRecord s)
    | 1 => some (idmRecord s)
    | _ => none
  else none

end Sys2Proof.Machine
end

