-- ==== Sys2Proof/Safety.lean ====
section
/-! DEFINITION. What a good state and a safe run are, and the vocabulary the statements use. -/

namespace Sys2Proof.Machine

open Sys2Proof

/-- What holds at reset and after every step.
The reserved bits of every register read as zero and the outcome is a named one (10_state.md R22, R23,
R27 to R29, R32, R34); the frame buffer and the parameters are well formed (R30, R42); `LASTOP` is the
`OP` of the word in `CMD` (R21, R26); `OUTCOME` = `NONE` only while no command has run (R23); an error
outcome has set `ERR` (R24); `MIC` = 1 only beside agreeing checksums (R25, 44_decode.md R184); and a
successful decode was one of the two `DECODE` words (30_encoding.md R88). -/
structure State.Inv (s : State) : Prop where
  params_ok : paramsOk s.params = true
  frame_wf : s.frame.wf = true
  status_reserved : s.status.extractLsb' 10 22 = 0
  outcome_named : (statusOutcome s.status).toNat ≤ 6
  bitlen_reserved : s.bitlen.extractLsb' 16 16 = 0
  cfg_reserved : s.cfg.extractLsb' 2 30 = 0
  crcPoly_reserved : s.crcPoly.extractLsb' 16 16 = 0
  crcInit_reserved : s.crcInit.extractLsb' 16 16 = 0
  crcXorout_reserved : s.crcXorout.extractLsb' 16 16 = 0
  crcRx_reserved : s.crcRx.extractLsb' 16 16 = 0
  crcCalc_reserved : s.crcCalc.extractLsb' 16 16 = 0
  sncrcRx_reserved : s.sncrcRx.extractLsb' 16 16 = 0
  sncrcCalc_reserved : s.sncrcCalc.extractLsb' 16 16 = 0
  lastop_is_op : statusLastop s.status = opField s.cmd
  none_before_commands : statusOutcome s.status = 0 →
    s.status = 0 ∧ s.cmd = 0 ∧ s.result = 0 ∧ s.fields = fieldFile [] ∧
    s.crcRx = 0 ∧ s.crcCalc = 0 ∧ s.sncrcRx = 0 ∧ s.sncrcCalc = 0
  error_sets_err : 5 ≤ (statusOutcome s.status).toNat → statusErr s.status = true
  mic_agrees : statusMic s.status = true → s.crcRx = s.crcCalc ∧ s.sncrcRx = s.sncrcCalc
  success_decode : statusLastop s.status = 5 → statusOutcome s.status = 1 →
    s.cmd = 0x50000000 ∨ s.cmd = 0x50000001

/-- The host has issued no erroneous command since reset (10_state.md R24, 92 D19): the premise of a claim
about a clean run. -/
def State.clean (s : State) : Prop := statusErr s.status = false

/-- The offsets at which a register stands (20_memory.md R60). -/
def Mapped (off : Nat) : Prop :=
  off % 4 = 0 ∧ (off ≤ 0x02C ∨ (0x040 ≤ off ∧ off ≤ 0x0D4) ∨ (0x100 ≤ off ∧ off ≤ 0x158))

/-- An aligned 32-bit access inside a mapped register (20_memory.md R61). -/
def InContract (base addr width : Nat) : Prop := width = 32 ∧ base ≤ addr ∧ Mapped (addr - base)

/-- A host access the interface contract allows (20_memory.md R61). -/
def HostAccess.allowed (base : Nat) : HostAccess → Prop
  | .read addr width => InContract base addr width
  | .write addr width _ => InContract base addr width
  | .reset => True

/-- A run that the model never refuses: a well-formed parameter set and allowed accesses only. -/
def State.safe (s : State) : Prop :=
  paramsOk s.params = true ∧ ∀ a ∈ s.pending, a.allowed s.params.base

/-- The read-only registers (10_state.md R34). -/
def Reg.readOnly : Reg → Bool
  | .status => true
  | .result => true
  | .crcRx => true
  | .crcCalc => true
  | .sncrcRx => true
  | .sncrcCalc => true
  | .field _ => true
  | .cmd => false
  | .bitlen => false
  | .cfg => false
  | .crcPoly => false
  | .crcInit => false
  | .crcXorout => false
  | .fbw _ => false

/-- The bits of a register that are not reserved (10_state.md R22, R27 to R29, R32). -/
def Reg.meaningful : Reg → Word
  | .status => 0x000003FF
  | .cfg => 0x00000003
  | .bitlen => 0x0000FFFF
  | .crcPoly => 0x0000FFFF
  | .crcInit => 0x0000FFFF
  | .crcXorout => 0x0000FFFF
  | .crcRx => 0x0000FFFF
  | .crcCalc => 0x0000FFFF
  | .sncrcRx => 0x0000FFFF
  | .sncrcCalc => 0x0000FFFF
  | .cmd => 0xFFFFFFFF
  | .result => 0xFFFFFFFF
  | .field _ => 0xFFFFFFFF
  | .fbw _ => 0xFFFFFFFF

/-- The instruction is a `DECODE` command. -/
def isDecode (i : Instr) : Bool := i = .decodeScmp ∨ i = .decodeIdm

/-- The instruction writes `RESULT` on success (10_state.md R31, R44). -/
def writesResult : Instr → Bool
  | .crc _ _ => true
  | .extu _ _ => true
  | .extb _ _ => true
  | .matchScmp => false
  | .matchIdm => false
  | .decodeScmp => false
  | .decodeIdm => false

/-- The rows of the opcode map, in its order: mask, match and field constraint (30_encoding.md R88). -/
def rowMatches : Fin 7 → Word → Prop
  | 0, w => w &&& 0xFFFF0000 = 0x10000000
  | 1, w => w &&& 0xFFFF00F8 = 0x20000000 ∧
      1 ≤ (w.extractLsb' 0 3).toNat ∧ (w.extractLsb' 0 3).toNat ≤ 4
  | 2, w => w &&& 0xFFF000C0 = 0x30000000 ∧
      1 ≤ (w.extractLsb' 0 6).toNat ∧ (w.extractLsb' 0 6).toNat ≤ 32
  | 3, w => w &&& 0xFFFFFFFF = 0x40000000
  | 4, w => w &&& 0xFFFFFFFF = 0x40000001
  | 5, w => w &&& 0xFFFFFFFF = 0x50000000
  | 6, w => w &&& 0xFFFFFFFF = 0x50000001

/-- The illegal words, as 30_encoding.md R90 lists them. -/
def IllegalListed (w : Word) : Prop :=
  let op := (w.extractLsb' 28 4).toNat
  (op = 0 ∨ 6 ≤ op) ∨
  (op = 1 ∧ w.extractLsb' 16 12 ≠ 0) ∨
  (op = 2 ∧ (w.extractLsb' 16 12 ≠ 0 ∨ w.extractLsb' 3 5 ≠ 0 ∨
    (w.extractLsb' 0 3).toNat = 0 ∨ 5 ≤ (w.extractLsb' 0 3).toNat)) ∨
  (op = 3 ∧ (w.extractLsb' 20 8 ≠ 0 ∨ w.extractLsb' 6 2 ≠ 0 ∨
    (w.extractLsb' 0 6).toNat = 0 ∨ 33 ≤ (w.extractLsb' 0 6).toNat)) ∨
  ((op = 4 ∨ op = 5) ∧ (w.extractLsb' 4 24 ≠ 0 ∨ 2 ≤ (w.extractLsb' 0 4).toNat))

/-- The registers that a decode writes hold the same in both states. -/
def SameDecode (t t' : State) : Prop :=
  t.status = t'.status ∧ t.fields = t'.fields ∧ t.crcRx = t'.crcRx ∧ t.crcCalc = t'.crcCalc ∧
  t.sncrcRx = t'.sncrcRx ∧ t.sncrcCalc = t'.sncrcCalc

/-- No record is left behind: every field register and `MIC` are 0 (44_decode.md R181). -/
def NoRecordLeft (t : State) : Prop := (∀ k : Fin 38, t.fields[k] = 0) ∧ statusMic t.status = false

/-- The two memories hold the same bytes at the addresses below `n`. -/
def AgreeBelow (n : Nat) (m m' : Memory) : Prop := ∀ a < n, m.read a = m'.read a

/-- The state with bit `k` of `FB[a]` inverted. -/
def State.flipBit (s : State) (a k : Nat) : State :=
  { s with frame := s.frame.write a (s.frame.read a ^^^ (1#8 <<< k)) }

end Sys2Proof.Machine
end

