-- ==== Sys2Proof/Certificates/Slice0/Obligations.lean ====
section
/-! DEFINITION. The statements, one definition each. -/

open Sys2Proof Sys2Proof.Machine

/-! ### Encoding -/

/-- Every well-formed instruction is read back from its own word (30_encoding.md R83 to R88). -/
def Obligations.EncodeThenDecodeIsIdentity : Prop :=
  ∀ i : Instr, i.wellFormed = true → decode (encode i) = .ok i

/-- Every legal word is the encoding of the instruction it stands for (30_encoding.md R88). -/
def Obligations.DecodeThenEncodeIsIdentity : Prop :=
  ∀ (w : Word) (i : Instr), decode w = .ok i → encode i = w ∧ i.wellFormed = true

/-- The opcode map: a word is the named command exactly when its row matches, every other word is
illegal, and no two rows match one word (30_encoding.md R88). -/
def Obligations.OpcodeMapIsExact : Prop :=
  ∀ w : Word,
    (∀ off len, decode w = .ok (.crc off len) ↔
      rowMatches 0 w ∧ off = w.extractLsb' 8 8 ∧ len = w.extractLsb' 0 8) ∧
    (∀ off n, decode w = .ok (.extu off n) ↔
      rowMatches 1 w ∧ off = w.extractLsb' 8 8 ∧ n = w.extractLsb' 0 3) ∧
    (∀ pos n, decode w = .ok (.extb pos n) ↔
      rowMatches 2 w ∧ pos = w.extractLsb' 8 12 ∧ n = w.extractLsb' 0 6) ∧
    (decode w = .ok .matchScmp ↔ rowMatches 3 w) ∧
    (decode w = .ok .matchIdm ↔ rowMatches 4 w) ∧
    (decode w = .ok .decodeScmp ↔ rowMatches 5 w) ∧
    (decode w = .ok .decodeIdm ↔ rowMatches 6 w) ∧
    ((∃ e, decode w = .error e) ↔ ∀ k, ¬ rowMatches k w) ∧
    (∀ j k, rowMatches j w → rowMatches k w → j = k)

/-- An illegal word is one that matches no row, which is one of the listed words, and executing it
changes `CMD` and `STATUS` alone (30_encoding.md R90). -/
def Obligations.IllegalWordChangesOnlyStatus : Prop :=
  ∀ (w : Word) (s : State),
    ((∃ e, decode w = .error e) ↔ ∀ k, ¬ rowMatches k w) ∧
    ((∃ e, decode w = .error e) ↔ IllegalListed w) ∧
    (IllegalListed w → command w s = .next { s with
      cmd := w
      status := withErr true (withOutcome 6 (withLastop (w.extractLsb' 28 4) s.status)) })

/-- The worked encodings, both ways: an inference that the spec marks as its own (30_encoding.md section 3,
"[derived: from rules R83–R88]"). -/
def Obligations.WorkedEncodings : Prop :=
  decode 0x1000020C = .ok (.crc 2 12) ∧ encode (.crc 2 12) = 0x1000020C ∧
  decode 0x20000404 = .ok (.extu 4 4) ∧ encode (.extu 4 4) = 0x20000404 ∧
  decode 0x20000801 = .ok (.extu 8 1) ∧ encode (.extu 8 1) = 0x20000801 ∧
  decode 0x30004404 = .ok (.extb 68 4) ∧ encode (.extb 68 4) = 0x30004404 ∧
  decode 0x3001400E = .ok (.extb 320 14) ∧ encode (.extb 320 14) = 0x3001400E ∧
  decode 0x3002BA06 = .ok (.extb 698 6) ∧ encode (.extb 698 6) = 0x3002BA06 ∧
  decode 0x40000000 = .ok .matchScmp ∧ encode .matchScmp = 0x40000000 ∧
  decode 0x50000001 = .ok .decodeIdm ∧ encode .decodeIdm = 0x50000001

/-! ### The step -/

/-- A step at a pending write of a command word latches the word and runs the instruction it decodes to,
or ends in `ILLEGAL_COMMAND` (30_encoding.md R81). -/
def Obligations.StepRunsTheDecodedCommand : Prop :=
  ∀ (s : State) (w : Word) (rest : List HostAccess),
    paramsOk s.params = true → s.pending = .write s.params.base 32 w :: rest →
    let l : State := { s with
      pending := rest, cmd := w, status := withLastop (w.extractLsb' 28 4) s.status }
    (∀ i, decode w = .ok i → step s = exec i l) ∧
    (∀ e, decode w = .error e →
      step s = .next { l with status := withErr true (withOutcome 6 l.status) })

/-- Every command word completes in one step, whatever the state: `LASTOP` is the word's `OP` and
`OUTCOME` is one of the named codes (10_state.md R23, R26; 60_exceptions.md R224). -/
def Obligations.EveryCommandWordCompletes : Prop :=
  ∀ (s : State) (w : Word) (rest : List HostAccess),
    paramsOk s.params = true → s.pending = .write s.params.base 32 w :: rest →
    ∃ t, step s = .next t ∧ t.pending = rest ∧ t.cmd = w ∧
      statusLastop t.status = w.extractLsb' 28 4 ∧
      1 ≤ (statusOutcome t.status).toNat ∧ (statusOutcome t.status).toNat ≤ 6

/-- A run of a safe state goes on for any number of steps: nothing stops the block
(60_exceptions.md R224; 20_memory.md R61). -/
def Obligations.SafeRunsNeverStop : Prop :=
  ∀ (n : Nat) (s : State), s.safe → ∃ t, Host.Core.run Sys2Proof.core n s = .next t ∧ t.safe

/-! ### The CRC command and the engine -/

/-- `CRC OFF, LEN` (40_crc.md R106): its word, what it computes, and that nothing else changes. -/
def Obligations.CrcCommandResult : Prop :=
  (∀ (w : Word) (s : State), w &&& 0xFFFF0000 = 0x10000000 →
    command w s = exec (.crc (w.extractLsb' 8 8) (w.extractLsb' 0 8))
      { s with cmd := w, status := withLastop 1 s.status }) ∧
  (∀ (off len : BitVec 8) (s : State),
    exec (.crc off len) s = .next (
      if min 92 ((s.bitlen.extractLsb' 0 16).toNat / 8) < off.toNat + len.toNat then
        { s with status := withErr true (withOutcome 5 s.status) }
      else { s with
        result := (crc16 (byteRange s.frame off.toNat (off.toNat + len.toNat))
          (s.crcPoly.extractLsb' 0 16) (s.crcInit.extractLsb' 0 16) ^^^
          s.crcXorout.extractLsb' 0 16).setWidth 32
        status := withOutcome 1 s.status }))

/-- The engine's update for every polynomial: each byte enters the top of the register, then eight rounds
shift left and XOR the polynomial when bit 15 was set (40_crc.md section 1; the spec marks this loop as
general knowledge, log 13). Then the engine on the empty range, which is an inference that the spec marks as its own (40_crc.md
section 3, "[derived: from rule R100 and rule R101]"), the catalogue's check values for "123456789"
(92 D50, 93 G2) and two one-byte values (95_test_vectors.md section 2.1). -/
def Obligations.CrcEngineKnownValues : Prop :=
  let digits : List Byte := [0x31, 0x32, 0x33, 0x34, 0x35, 0x36, 0x37, 0x38, 0x39]
  (∀ (b : Byte) (seq : List Byte) (poly init : Half), crc16 (b :: seq) poly init =
    crc16 seq poly (Nat.repeat (fun r => if r.getLsbD 15 then (r <<< 1) ^^^ poly else r <<< 1) 8
      (init ^^^ (b.setWidth 16 <<< 8)))) ∧
  (∀ poly init : Half, crc16 [] poly init = init) ∧
  (∀ poly init xorout : Half, crcv [] poly init xorout = init ^^^ xorout) ∧
  crcv [] 0x1021 0xFFFF 0xFFFF = 0x0000 ∧
  crcv digits 0x1021 0xFFFF 0xFFFF = 0xD64E ∧ crcv digits 0x1021 0xFFFF 0x0000 = 0x29B1 ∧
  crcv digits 0x1021 0x0000 0x0000 = 0x31C3 ∧ crcv digits 0x8005 0x0000 0x0000 = 0xFEE8 ∧
  crc16 [0x01] 0x1021 0x0000 = 0x1021 ∧ crc16 [0x80] 0x1021 0x0000 = 0x9188

/-- With an odd polynomial, two inputs of one length that differ in exactly one bit have different CRCs:
an inference that the spec marks as its own (40_crc.md section 3, single-bit sensitivity, "[derived: from
rule R100"). -/
def Obligations.CrcSingleBitSensitivity : Prop :=
  ∀ (poly init : Half) (a : List Byte) (i k : Nat), poly.getLsbD 0 = true → i < a.length → k < 8 →
    crc16 (a.set i (a.getD i 0 ^^^ (1#8 <<< k))) poly init ≠ crc16 a poly init

/-- With the zero polynomial the register only shifts, whatever the data, and the command computes that
value and does not refuse it: an inference that the spec marks as its own (40_crc.md section 3, degenerate
polynomial, "[derived: from rule R100]"). -/
def Obligations.CrcZeroPolynomialOnlyShifts : Prop :=
  (∀ (seq : List Byte) (init : Half), crc16 seq 0 init = init <<< (8 * seq.length)) ∧
  (∀ init : Half, crc16 [] 0 init = init) ∧
  (∀ (b : Byte) (init : Half), crc16 [b] 0 init = (init &&& 0x00FF) <<< 8) ∧
  (∀ (seq : List Byte) (init : Half), 2 ≤ seq.length → crc16 seq 0 init = 0) ∧
  (∀ (off len : BitVec 8) (s : State), s.crcPoly = 0 →
    off.toNat + len.toNat ≤ min 92 ((s.bitlen.extractLsb' 0 16).toNat / 8) →
    exec (.crc off len) s = .next { s with
      result := ((s.crcInit.extractLsb' 0 16) <<< (8 * len.toNat) ^^^
        s.crcXorout.extractLsb' 0 16).setWidth 32
      status := withOutcome 1 s.status })

/-- The engine is linear over equal-length inputs: an inference that the spec marks as its own
(40_crc.md section 3, linearity, "[derived: from rule R100"). -/
def Obligations.CrcIsLinear : Prop :=
  ∀ (a b : List Byte) (poly init : Half), a.length = b.length →
    crc16 a poly init ^^^ crc16 b poly init = crc16 (List.zipWith (· ^^^ ·) a b) poly 0x0000

/-! ### Extraction -/

/-- A byte field is big-endian: each byte of the value is the byte of the frame that
42_extract.md R140 puts there, and the value has no more bytes. -/
def Obligations.ByteFieldIsBigEndian : Prop :=
  ∀ (m : Memory) (off w : Nat), 1 ≤ w → w ≤ 4 →
    be m off w < 2 ^ (8 * w) ∧
    ∀ j < w, (be m off w >>> (8 * (w - 1 - j))) % 256 = (m.read (off + j)).toNat

/-- A bit field is MSB-first: each bit of the value is the stream bit that 42_extract.md R141 puts there,
and the value has no more bits. -/
def Obligations.BitFieldIsMsbFirst : Prop :=
  ∀ (m : Memory) (pos w : Nat), 1 ≤ w → w ≤ 32 →
    bits m pos w < 2 ^ w ∧
    ∀ j < w, (bits m pos w).testBit (w - 1 - j) =
      (m.read ((pos + j) / 8)).getLsbD (7 - (pos + j) % 8)

/-- The two primitives agree on whole bytes: an inference that the spec marks as its own (42_extract.md
section 1, "[derived: from rules R140, R141]"). -/
def Obligations.ByteFieldIsItsBitField : Prop :=
  ∀ (m : Memory) (off w : Nat), 1 ≤ w → w ≤ 4 → be m off w = bits m (8 * off) (8 * w)

/-- A cursor that reads two fields one after the other reads the bits of the field that spans both: it
follows from what 42_extract.md section 1 says of the bit reader, "[derived: from rule R141]". -/
def Obligations.BitCursorReadsOn : Prop :=
  ∀ (m : Memory) (pos u v : Nat),
    bits m pos (u + v) = 2 ^ v * bits m pos u + bits m (pos + u) v

/-- `EXTU OFF, W` (42_extract.md R144): its words, what it computes for every width the format has, and
that nothing else changes. -/
def Obligations.ExtuCommandResult : Prop :=
  (∀ (w : Word) (s : State), w &&& 0xFFFF00F8 = 0x20000000 →
    1 ≤ (w.extractLsb' 0 3).toNat → (w.extractLsb' 0 3).toNat ≤ 4 →
    command w s = exec (.extu (w.extractLsb' 8 8) (w.extractLsb' 0 3))
      { s with cmd := w, status := withLastop 2 s.status }) ∧
  (∀ (off : BitVec 8) (w : BitVec 3) (s : State), 1 ≤ w.toNat → w.toNat ≤ 4 →
    exec (.extu off w) s = .next (
      if min 92 ((s.bitlen.extractLsb' 0 16).toNat / 8) < off.toNat + w.toNat then
        { s with status := withErr true (withOutcome 5 s.status) }
      else { s with
        result := BitVec.ofNat 32 (be s.frame off.toNat w.toNat)
        status := withOutcome 1 s.status }))

/-- `EXTB BITOFF, W` (42_extract.md R145): its words, what it computes for every width the format has,
and that nothing else changes. -/
def Obligations.ExtbCommandResult : Prop :=
  (∀ (w : Word) (s : State), w &&& 0xFFF000C0 = 0x30000000 →
    1 ≤ (w.extractLsb' 0 6).toNat → (w.extractLsb' 0 6).toNat ≤ 32 →
    command w s = exec (.extb (w.extractLsb' 8 12) (w.extractLsb' 0 6))
      { s with cmd := w, status := withLastop 3 s.status }) ∧
  (∀ (pos : BitVec 12) (w : BitVec 6) (s : State), 1 ≤ w.toNat → w.toNat ≤ 32 →
    exec (.extb pos w) s = .next (
      if 8 * min 92 ((s.bitlen.extractLsb' 0 16).toNat / 8) < pos.toNat + w.toNat then
        { s with status := withErr true (withOutcome 5 s.status) }
      else { s with
        result := BitVec.ofNat 32 (bits s.frame pos.toNat w.toNat)
        status := withOutcome 1 s.status }))

/-- The commands with a range the host builds read the declared row only, and read nothing when they end
in an error (42_extract.md R143). -/
def Obligations.HostRangesReadTheDeclaredRowOnly : Prop :=
  ∀ (i : Instr) (s t : State) (m : Memory), writesResult i = true → exec i s = .next t →
    (AgreeBelow (min 92 ((s.bitlen.extractLsb' 0 16).toNat / 8)) s.frame m ∨
      5 ≤ (statusOutcome t.status).toNat) →
    exec i { s with frame := m } = .next { t with frame := m }

/-- At the default transmit-time-offset position the field shares its upper 10 bits with the last interval
and its lower 6 bits with the padding (42_extract.md section 3; 90_conflicts.md C4). That those 6 bits are
the padding is an inference that the spec marks as its own ("[derived: 48·8 − 27·14 = 6]"). -/
def Obligations.TtoOverlapsTheLastInterval : Prop :=
  ∀ m : Memory,
    be m 86 2 = bits m 688 16 ∧ bits m 684 14 % 2 ^ 10 = be m 86 2 / 2 ^ 6 ∧
    be m 86 2 % 2 ^ 6 = bits m 698 6

/-- The IDM endpoint type is the low nibble; when validation is off and the transmit time offset does not
cover byte 8, the reserved high nibble has no effect on `STATUS` and the fields (42_extract.md R147,
93 U11). It does change `CRC_CALC` where the packet range covers it (95_test_vectors.md section 3.6, row
11). -/
def Obligations.ReservedNibbleIsMaskedOff : Prop :=
  ∀ (s t : State) (b : Byte), s.cfg.getLsbD 1 = false → s.params.ttoOffset ≠ 8 →
    s.params.ttoOffset + 1 ≠ 8 → b.toNat % 16 = (s.frame.read 8).toNat % 16 →
    exec .decodeIdm s = .next t → statusOutcome t.status = 1 →
    t.fields[2].toNat = (s.frame.read 8).toNat % 16 ∧
    ∃ t', exec .decodeIdm { s with frame := s.frame.write 8 b } = .next t' ∧
      t'.status = t.status ∧ t'.fields = t.fields

/-! ### The matcher -/

/-- `MATCH.SCMP` (41_match.md R124): its word, its outcome, and that nothing else changes. -/
def Obligations.MatchScmpResult : Prop :=
  (∀ s : State, command 0x40000000 s =
    exec .matchScmp { s with cmd := 0x40000000, status := withLastop 4 s.status }) ∧
  (∀ s : State, exec .matchScmp s = .next { s with
    status := withOutcome (
      if (s.bitlen.extractLsb' 0 16).toNat ≠ 128 then 2
      else if s.frame.read 0 = 0x16 ∧ s.frame.read 1 = 0xA3 then 1 else 3) s.status })

/-- `MATCH.IDM` (41_match.md R125): its word, its outcome, and that nothing else changes. -/
def Obligations.MatchIdmResult : Prop :=
  (∀ s : State, command 0x40000001 s =
    exec .matchIdm { s with cmd := 0x40000001, status := withLastop 4 s.status }) ∧
  (∀ s : State, exec .matchIdm s = .next { s with
    status := withOutcome (
      if (s.bitlen.extractLsb' 0 16).toNat ≠ 736 then 2
      else if s.frame.read 0 = 0x55 ∧ s.frame.read 1 = 0x55 ∧ s.frame.read 2 = 0x16 ∧
        s.frame.read 3 = 0xA3 ∧ s.frame.read 4 = 0x1C ∧ s.frame.read 5 = 0x5C ∧
        s.frame.read 6 = 0xC6 then 1 else 3) s.status })

/-- `LENGTH_MISMATCH` is the outcome exactly when `BITLEN` differs from the format's length, whatever the
frame holds, and it is no error (41_match.md R121). -/
def Obligations.LengthCheckIgnoresContent : Prop :=
  ∀ (i : Instr) (n : Nat) (s : State),
    (i = .matchScmp ∨ i = .decodeScmp) ∧ n = 128 ∨ (i = .matchIdm ∨ i = .decodeIdm) ∧ n = 736 →
    ∃ t, exec i s = .next t ∧ statusErr t.status = statusErr s.status ∧
      (statusOutcome t.status = 2 ↔ (s.bitlen.extractLsb' 0 16).toNat ≠ n)

/-! ### The decoders -/

/-- `DECODE.SCMP` (44_decode.md R194): its word, all four outcomes with everything they write, and that
nothing else changes. -/
def Obligations.DecodeScmpResult : Prop :=
  (∀ s : State, command 0x50000000 s =
    exec .decodeScmp { s with cmd := 0x50000000, status := withLastop 5 s.status }) ∧
  (∀ s : State,
    let p : State := { s with
      fields := Vector.replicate 38 0, crcRx := 0, crcCalc := 0, sncrcRx := 0, sncrcCalc := 0
      status := withMic false s.status }
    let computed : Half := crc16 (byteRange s.frame 2 14) 0x1021 0xFFFF ^^^ 0xFFFF
    let received : Half := BitVec.ofNat 16 (be s.frame 14 2)
    let v : State := { p with
      crcRx := received.setWidth 32, crcCalc := computed.setWidth 32 }
    let enforced := s.cfg.getLsbD 0
    exec .decodeScmp s = .next (
      if (s.bitlen.extractLsb' 0 16).toNat ≠ 128 then
        { p with status := withOutcome 2 p.status }
      else if ¬ (s.frame.read 0 = 0x16 ∧ s.frame.read 1 = 0xA3) then
        { p with status := withOutcome 3 p.status }
      else if enforced = true ∧ computed ≠ received then
        { v with status := withOutcome 4 v.status }
      else { v with
        fields := fieldFile [word (be s.frame 2 1), word (be s.frame 3 1), word (be s.frame 4 4),
          word (be s.frame 8 4), word (be s.frame 12 2), received.setWidth 32, computed.setWidth 32]
        status := withOutcome 1 (withMic enforced v.status) }))

/-- `DECODE.IDM` (44_decode.md R206): its word, all four outcomes with everything they write, and that
nothing else changes, for every parameter set. -/
def Obligations.DecodeIdmResult : Prop :=
  (∀ s : State, command 0x50000001 s =
    exec .decodeIdm { s with cmd := 0x50000001, status := withLastop 5 s.status }) ∧
  (∀ s : State,
    let m := s.frame
    let q := s.params
    let p : State := { s with
      fields := Vector.replicate 38 0, crcRx := 0, crcCalc := 0, sncrcRx := 0, sncrcCalc := 0
      status := withMic false s.status }
    let pcalc : Half := crc16 (byteRange m q.pktCrcLo q.pktCrcHi) 0x1021 q.pktInit ^^^ q.pktXorout
    let prx : Half := BitVec.ofNat 16 (be m 90 2)
    let scalc : Half := crc16 (byteRange m 9 13 ++ byteRange m q.ttoOffset (q.ttoOffset + 2))
      0x1021 q.snInit ^^^ q.snXorout
    let srx : Half := BitVec.ofNat 16 (be m 88 2)
    let v : State := { p with
      crcRx := prx.setWidth 32, crcCalc := pcalc.setWidth 32
      sncrcRx := srx.setWidth 32, sncrcCalc := scalc.setWidth 32 }
    let enforced := s.cfg.getLsbD 1
    exec .decodeIdm s = .next (
      if (s.bitlen.extractLsb' 0 16).toNat ≠ 736 then
        { p with status := withOutcome 2 p.status }
      else if ¬ (m.read 0 = 0x55 ∧ m.read 1 = 0x55 ∧ m.read 2 = 0x16 ∧ m.read 3 = 0xA3 ∧
          m.read 4 = 0x1C ∧ m.read 5 = 0x5C ∧ m.read 6 = 0xC6) then
        { p with status := withOutcome 3 p.status }
      else if enforced = true ∧ (pcalc ≠ prx ∨ scalc ≠ srx) then
        { v with status := withOutcome 4 v.status }
      else { v with
        fields := fieldFile ([word (be m 9 4), word (be m 7 1), word (be m 8 1 % 16),
          word (be m 13 1), word (be m 14 1), word (be m 28 3), word (be m 25 3), word (be m 34 4),
          srx.setWidth 32, prx.setWidth 32, word (be m q.ttoOffset 2)] ++
          (List.range 27).map fun j => word (bits m (320 + 14 * j) 14))
        status := withOutcome 1 (withMic enforced v.status) }))

/-- The IDM integrity decision: both CRCs are always computed and stand in the diagnostic registers, and
under enforcement both must validate (44_decode.md R203). -/
def Obligations.IdmNeedsBothCrcs : Prop :=
  ∀ s : State, (∃ t, exec .matchIdm s = .next t ∧ statusOutcome t.status = 1) →
    ∃ t, exec .decodeIdm s = .next t ∧
      (s.cfg.getLsbD 1 = true →
        (statusOutcome t.status = 4 ↔ t.crcCalc ≠ t.crcRx ∨ t.sncrcCalc ≠ t.sncrcRx) ∧
        (statusOutcome t.status = 1 ↔ t.crcCalc = t.crcRx ∧ t.sncrcCalc = t.sncrcRx)) ∧
      t.crcRx = word (be s.frame 90 2) ∧ t.sncrcRx = word (be s.frame 88 2) ∧
      t.crcCalc = (crcv (byteRange s.frame s.params.pktCrcLo s.params.pktCrcHi) 0x1021
        s.params.pktInit s.params.pktXorout).setWidth 32 ∧
      t.sncrcCalc = (crcv (byteRange s.frame 9 13 ++
        byteRange s.frame s.params.ttoOffset (s.params.ttoOffset + 2)) 0x1021
        s.params.snInit s.params.snXorout).setWidth 32

/-- A decode that does not succeed leaves no record, and one that does not match leaves the diagnostic
registers 0 too (44_decode.md R181, 10_state.md R32). -/
def Obligations.FailedDecodeLeavesNoRecord : Prop :=
  ∀ (i : Instr) (s : State), isDecode i = true →
    ∃ t, exec i s = .next t ∧
      (statusOutcome t.status ≠ 1 → NoRecordLeft t) ∧
      (statusOutcome t.status = 2 ∨ statusOutcome t.status = 3 →
        t.crcRx = 0 ∧ t.crcCalc = 0 ∧ t.sncrcRx = 0 ∧ t.sncrcCalc = 0)

/-- A decode reads `BITLEN`, `CFG` and its own frame's bytes only, and writes none of `FB`, `BITLEN`,
`CFG`, `CRC_*` and `RESULT` (44_decode.md R182). -/
def Obligations.DecodeReadsOnlyItsFrame : Prop :=
  (∀ s s' : State, s.bitlen = s'.bitlen → s.cfg = s'.cfg → s.status = s'.status →
    s.params = s'.params → paramsOk s.params = true →
    (AgreeBelow 16 s.frame s'.frame → ∃ t t', exec .decodeScmp s = .next t ∧
      exec .decodeScmp s' = .next t' ∧ SameDecode t t') ∧
    (AgreeBelow 92 s.frame s'.frame → ∃ t t', exec .decodeIdm s = .next t ∧
      exec .decodeIdm s' = .next t' ∧ SameDecode t t')) ∧
  (∀ (i : Instr) (s t : State), isDecode i = true → exec i s = .next t →
    t.frame = s.frame ∧ t.bitlen = s.bitlen ∧ t.cfg = s.cfg ∧ t.crcPoly = s.crcPoly ∧
    t.crcInit = s.crcInit ∧ t.crcXorout = s.crcXorout ∧ t.result = s.result)

/-- The worked examples of `CRC`, `EXTU`, `EXTB` and `DECODE.SCMP`, which the spec marks as its own
inferences (40_crc.md section 2, "[derived: from rule R100]"; 42_extract.md section 2, "[derived: from rule
R140]" and "[derived: from rule R141]"; 44_decode.md section 2, "[derived: from this rule]"). -/
def Obligations.WorkedCommandExamples : Prop :=
  (∀ s : State, byteRange s.frame 0 9 = [0x31, 0x32, 0x33, 0x34, 0x35, 0x36, 0x37, 0x38, 0x39] →
    s.bitlen = 72 → s.crcPoly = 0x1021 → s.crcInit = 0xFFFF → s.crcXorout = 0xFFFF →
    exec (.crc 0 9) s = .next { s with result := 0x0000D64E, status := withOutcome 1 s.status }) ∧
  (∀ s : State, byteRange s.frame 4 8 = [0x00, 0x00, 0x01, 0x2C] → s.bitlen = 128 →
    exec (.extu 4 4) s = .next { s with result := 0x0000012C, status := withOutcome 1 s.status }) ∧
  (∀ s : State, s.frame.read 8 = 0xA7 → 72 ≤ (s.bitlen.extractLsb' 0 16).toNat →
    exec (.extb 68 4) s = .next { s with result := 0x7, status := withOutcome 1 s.status } ∧
    exec (.extb 64 4) s = .next { s with result := 0xA, status := withOutcome 1 s.status }) ∧
  (∀ s : State, s.bitlen = 128 → s.cfg.getLsbD 0 = true →
    byteRange s.frame 0 16 = [0x16, 0xA3, 0x1E, 0x02, 0x00, 0x00, 0x01, 0x2C, 0x00, 0x00, 0x04, 0xD2,
      0x00, 0x00, 0x46, 0x38] →
    ∃ t, exec .decodeScmp s = .next t ∧ statusOutcome t.status = 1 ∧ statusMic t.status = true ∧
      t.fields = fieldFile [0x1E, 0x02, 0x0000012C, 0x000004D2, 0x0000, 0x4638, 0x4638])

/-- With its enable bit 0 a decode of a matching row succeeds whatever its checksums, without `MIC`
(44_decode.md R184). -/
def Obligations.EnforcementOffNeverFails : Prop :=
  ∀ s : State,
    (s.cfg.getLsbD 0 = false → (∃ t, exec .matchScmp s = .next t ∧ statusOutcome t.status = 1) →
      ∃ t, exec .decodeScmp s = .next t ∧ statusOutcome t.status = 1 ∧
        statusMic t.status = false ∧ t.fields[5] = t.crcRx ∧ t.fields[6] = t.crcCalc) ∧
    (s.cfg.getLsbD 1 = false → (∃ t, exec .matchIdm s = .next t ∧ statusOutcome t.status = 1) →
      ∃ t, exec .decodeIdm s = .next t ∧ statusOutcome t.status = 1 ∧
        statusMic t.status = false ∧ t.fields[9] = t.crcRx ∧ t.fields[8] = t.sncrcRx)

/-- Inverting any one bit of bytes 2 to 15 of a frame that `DECODE.SCMP` accepts under enforcement gives
`INTEGRITY_FAILURE` and no record: an inference that the spec marks as its own (44_decode.md section 2,
"[derived: from 40_crc.md rule R108 for bytes 2–13 and from the comparison for bytes 14–15]"). -/
def Obligations.ScmpSingleBitErrorIsCaught : Prop :=
  ∀ (s t : State) (a k : Nat), 2 ≤ a → a < 16 → k < 8 → s.cfg.getLsbD 0 = true →
    exec .decodeScmp s = .next t → statusOutcome t.status = 1 →
    ∃ t', exec .decodeScmp (s.flipBit a k) = .next t' ∧ statusOutcome t'.status = 4 ∧ NoRecordLeft t'

/-- With the default packet range, inverting any one bit of bytes 7 to 91 of a frame that `DECODE.IDM`
accepts under enforcement gives `INTEGRITY_FAILURE` and no record. It follows from 44_decode.md section 3
and the single-bit law that 40_crc.md section 3 marks as the spec's own inference; the range is OPEN
parameter D33 (log 6). -/
def Obligations.IdmSingleBitErrorIsCaught : Prop :=
  ∀ (s t : State) (a k : Nat), 7 ≤ a → a < 92 → k < 8 → s.cfg.getLsbD 1 = true →
    s.params.pktCrcLo = 7 → s.params.pktCrcHi = 90 →
    exec .decodeIdm s = .next t → statusOutcome t.status = 1 →
    ∃ t', exec .decodeIdm (s.flipBit a k) = .next t' ∧ statusOutcome t'.status = 4 ∧ NoRecordLeft t'

/-- After a successful decode every field register holds a value of its field's width, and the unused
ones hold 0 (10_state.md R33). -/
def Obligations.FieldWidthsHold : Prop :=
  (∀ s t : State, exec .decodeScmp s = .next t →
    t.fields[0].toNat < 2 ^ 8 ∧ t.fields[1].toNat < 2 ^ 8 ∧ t.fields[4].toNat < 2 ^ 16 ∧
    t.fields[5].toNat < 2 ^ 16 ∧ t.fields[6].toNat < 2 ^ 16 ∧
    ∀ k : Fin 38, 7 ≤ k.val → t.fields[k] = 0) ∧
  (∀ s t : State, exec .decodeIdm s = .next t →
    t.fields[1].toNat < 2 ^ 8 ∧ t.fields[2].toNat < 2 ^ 4 ∧ t.fields[3].toNat < 2 ^ 8 ∧
    t.fields[4].toNat < 2 ^ 8 ∧ t.fields[5].toNat < 2 ^ 24 ∧ t.fields[6].toNat < 2 ^ 24 ∧
    t.fields[8].toNat < 2 ^ 16 ∧ t.fields[9].toNat < 2 ^ 16 ∧ t.fields[10].toNat < 2 ^ 16 ∧
    ∀ k : Fin 38, 11 ≤ k.val → t.fields[k].toNat < 2 ^ 14)

/-! ### STATUS and write sets -/

/-- The `STATUS` word is its four fields at their places (10_state.md R22). -/
def Obligations.StatusWordLayout : Prop :=
  ∀ s : State, s.Inv →
    s.status.toNat = (statusOutcome s.status).toNat + 2 ^ 4 * (statusLastop s.status).toNat +
      2 ^ 8 * (statusErr s.status).toNat + 2 ^ 9 * (statusMic s.status).toNat

/-- `STATUS.ERR` is set by every command that ends in `RANGE_ERROR` or `ILLEGAL_COMMAND`, by nothing
else, and only reset clears it (10_state.md R24). -/
def Obligations.ErrIsStickyUntilReset : Prop :=
  ∀ (s t : State) (a : HostAccess) (rest : List HostAccess),
    s.pending = a :: rest → step s = .next t →
    (a = .reset → statusErr t.status = false) ∧
    (∀ w, a = .write s.params.base 32 w →
      statusErr t.status = (statusErr s.status ||
        decide (statusOutcome t.status = 5 ∨ statusOutcome t.status = 6))) ∧
    (a ≠ .reset → (∀ w, a ≠ .write s.params.base 32 w) → statusErr t.status = statusErr s.status)

/-- `STATUS.MIC` is written by the `DECODE` commands and by no other, and is 1 only after a success with
the format's validation enabled (10_state.md R25). -/
def Obligations.MicOnlyFromDecode : Prop :=
  ∀ (w : Word) (s t : State), command w s = .next t →
    (decode w = .ok .decodeScmp →
      statusMic t.status = (decide (statusOutcome t.status = 1) && s.cfg.getLsbD 0)) ∧
    (decode w = .ok .decodeIdm →
      statusMic t.status = (decide (statusOutcome t.status = 1) && s.cfg.getLsbD 1)) ∧
    ((∀ i, decode w = .ok i → isDecode i = false) → statusMic t.status = statusMic s.status)

/-- The write set of each command: what it leaves unchanged, and what a decode clears
(10_state.md R44). -/
def Obligations.CommandWriteSets : Prop :=
  ∀ (w : Word) (s t : State), command w s = .next t →
    t.cmd = w ∧ statusLastop t.status = w.extractLsb' 28 4 ∧
    (∀ a, t.frame.read a = s.frame.read a) ∧ t.frame = s.frame ∧
    t.bitlen = s.bitlen ∧ t.cfg = s.cfg ∧ t.crcPoly = s.crcPoly ∧ t.crcInit = s.crcInit ∧
    t.crcXorout = s.crcXorout ∧ t.params = s.params ∧ t.draw = s.draw ∧ t.pending = s.pending ∧
    t.reads = s.reads ∧
    t.status.extractLsb' 10 22 = s.status.extractLsb' 10 22 ∧
    statusErr t.status = (statusErr s.status ||
      decide (statusOutcome t.status = 5 ∨ statusOutcome t.status = 6)) ∧
    (statusOutcome t.status = 5 → ∃ i, decode w = .ok i ∧ writesResult i = true) ∧
    (statusOutcome t.status = 6 ↔ ∃ e, decode w = .error e) ∧
    (t.result ≠ s.result →
      statusOutcome t.status = 1 ∧ ∃ i, decode w = .ok i ∧ writesResult i = true) ∧
    ((∀ i, decode w = .ok i → isDecode i = false) →
      t.fields = s.fields ∧ t.crcRx = s.crcRx ∧ t.crcCalc = s.crcCalc ∧ t.sncrcRx = s.sncrcRx ∧
      t.sncrcCalc = s.sncrcCalc ∧ statusMic t.status = statusMic s.status) ∧
    (∀ i, decode w = .ok i → isDecode i = true →
      (statusOutcome t.status ≠ 1 → NoRecordLeft t) ∧
      (statusOutcome t.status = 2 ∨ statusOutcome t.status = 3 →
        t.crcRx = 0 ∧ t.crcCalc = 0 ∧ t.sncrcRx = 0 ∧ t.sncrcCalc = 0))

/-! ### The host window -/

/-- A write to a read-only register changes nothing; a write to another register stores every bit that is
not reserved and drops the rest; a write to `BITLEN`, `CFG`, `CRC_POLY`, `CRC_INIT` or `CRC_XOROUT` changes
that register alone (10_state.md R27 to R29); a reserved bit reads as 0 (10_state.md R34). -/
def Obligations.ReservedAndReadOnlyBits : Prop :=
  (∀ (r : Reg) (v : Word) (s : State), r.readOnly = true → hostWrite r v s = .next s) ∧
  (∀ (r : Reg) (v : Word) (s : State), r.readOnly = false →
    ∃ t, hostWrite r v s = .next t ∧ readReg r t = v &&& r.meaningful) ∧
  (∀ (v : Word) (s : State),
    hostWrite .bitlen v s = .next { s with bitlen := v &&& 0x0000FFFF } ∧
    hostWrite .cfg v s = .next { s with cfg := v &&& 0x00000003 } ∧
    hostWrite .crcPoly v s = .next { s with crcPoly := v &&& 0x0000FFFF } ∧
    hostWrite .crcInit v s = .next { s with crcInit := v &&& 0x0000FFFF } ∧
    hostWrite .crcXorout v s = .next { s with crcXorout := v &&& 0x0000FFFF }) ∧
  (∀ (r : Reg) (s : State), s.Inv → readReg r s &&& ~~~ r.meaningful = 0)

/-- Frame words are big-endian, a write to one stores its four bytes and no other, and the 23 words cover
every frame byte exactly once (20_memory.md R62). -/
def Obligations.FrameWordsAreBigEndian : Prop :=
  (∀ (j : Fin 23) (s : State), readReg (.fbw j) s =
    ((s.frame.read (4 * j.val)).setWidth 32 <<< 24) |||
    ((s.frame.read (4 * j.val + 1)).setWidth 32 <<< 16) |||
    ((s.frame.read (4 * j.val + 2)).setWidth 32 <<< 8) |||
    (s.frame.read (4 * j.val + 3)).setWidth 32) ∧
  (∀ (j : Fin 23) (v : Word) (s : State), ∃ m, hostWrite (.fbw j) v s = .next { s with frame := m } ∧
    m.read (4 * j.val) = v.extractLsb' 24 8 ∧ m.read (4 * j.val + 1) = v.extractLsb' 16 8 ∧
    m.read (4 * j.val + 2) = v.extractLsb' 8 8 ∧ m.read (4 * j.val + 3) = v.extractLsb' 0 8 ∧
    ∀ a : Nat, (a < 4 * j.val ∨ 4 * j.val + 4 ≤ a) → m.read a = s.frame.read a) ∧
  (∀ a < 92, ∃! j : Fin 23, 4 * j.val ≤ a ∧ a < 4 * j.val + 4)

/-- A host access is refused exactly when it is no aligned 32-bit access inside a mapped register
(20_memory.md R61). -/
def Obligations.OutOfContractAccessIsRefused : Prop :=
  ∀ (s : State) (a : HostAccess) (rest : List HostAccess),
    paramsOk s.params = true → s.pending = a :: rest →
    ((∃ e, step s = .refused e) ↔ ¬ a.allowed s.params.base) ∧
    ((∃ t, step s = .next t) ↔ a.allowed s.params.base)

/-- The register map: the offset of every register, that at every aligned offset stands at most one
register, and at which offsets one stands (20_memory.md R60). -/
def Obligations.RegisterMapIsOneToOne : Prop :=
  (Reg.offset .cmd = 0x000 ∧ Reg.offset .status = 0x004 ∧ Reg.offset .bitlen = 0x008 ∧
    Reg.offset .cfg = 0x00C ∧ Reg.offset .crcPoly = 0x010 ∧ Reg.offset .crcInit = 0x014 ∧
    Reg.offset .crcXorout = 0x018 ∧ Reg.offset .result = 0x01C ∧ Reg.offset .crcRx = 0x020 ∧
    Reg.offset .crcCalc = 0x024 ∧ Reg.offset .sncrcRx = 0x028 ∧ Reg.offset .sncrcCalc = 0x02C ∧
    (∀ k : Fin 38, Reg.offset (.field k) = 0x040 + 4 * k.val) ∧
    (∀ j : Fin 23, Reg.offset (.fbw j) = 0x100 + 4 * j.val)) ∧
  (∀ (off : Nat) (r : Reg), off % 4 = 0 → (regAt off = some r ↔ r.offset = off)) ∧
  (∀ off : Nat, off % 4 = 0 → ((∃ r, regAt off = some r) ↔
    off ≤ 0x02C ∨ (0x040 ≤ off ∧ off ≤ 0x0D4) ∨ (0x100 ≤ off ∧ off ≤ 0x158))) ∧
  (∀ off : Nat, off % 4 = 0 → ((∃ r, regAt off = some r) ↔ Mapped off))

/-- A host read returns the register and changes nothing of the block (20_memory.md R69), and what each
register reads as: the register of the block that bears its name (10_state.md sections 2 and 4; the frame
words are in FrameWordsAreBigEndian). -/
def Obligations.ReadHasNoSideEffect : Prop :=
  (∀ (r : Reg) (s : State) (rest : List HostAccess), paramsOk s.params = true →
    s.pending = .read (s.params.base + r.offset) 32 :: rest →
    step s = .next { s with pending := rest, reads := readReg r s :: s.reads }) ∧
  (∀ s : State,
    readReg .cmd s = s.cmd ∧ readReg .status s = s.status ∧ readReg .bitlen s = s.bitlen ∧
    readReg .cfg s = s.cfg ∧ readReg .crcPoly s = s.crcPoly ∧ readReg .crcInit s = s.crcInit ∧
    readReg .crcXorout s = s.crcXorout ∧ readReg .result s = s.result ∧
    readReg .crcRx s = s.crcRx ∧ readReg .crcCalc s = s.crcCalc ∧
    readReg .sncrcRx s = s.sncrcRx ∧ readReg .sncrcCalc s = s.sncrcCalc ∧
    ∀ k : Fin 38, readReg (.field k) s = s.fields[k])

/-- A host read after a host write to a writable register returns what the write stored, also when the
write ran a command (20_memory.md R72, 10_state.md R21). -/
def Obligations.ReadAfterWriteSeesTheWrite : Prop :=
  ∀ (r : Reg) (v : Word) (s : State) (rest : List HostAccess), paramsOk s.params = true →
    r.readOnly = false →
    s.pending = .write (s.params.base + r.offset) 32 v :: .read (s.params.base + r.offset) 32 :: rest →
    ∃ t, Host.Core.run Sys2Proof.core 2 s = .next t ∧ t.reads = (v &&& r.meaningful) :: s.reads ∧
      t.pending = rest

/-- Writing the same word to the same register twice leaves what writing it once leaves, commands
included: for commands an inference that the spec marks as its own (20_memory.md section 3, side effects,
"[derived: from 10_state.md rule R44 and the command rules]"). -/
def Obligations.HostWritesAreIdempotent : Prop :=
  ∀ (r : Reg) (v : Word) (s t : State), s.frame.wf = true → hostWrite r v s = .next t →
    hostWrite r v t = .next t

/-- Two frame words and a field that straddles them: the spec's example, which it marks as its own
inference (20_memory.md section 2, "[derived: from rule R62 and 42_extract.md rule R140]"). -/
def Obligations.FieldsStraddleFrameWords : Prop :=
  ∀ (s : State) (rest : List HostAccess), paramsOk s.params = true →
    s.pending = .write (s.params.base + 0x100) 32 0x16A31E02 ::
      .write (s.params.base + 0x104) 32 0x0000012C :: rest →
    ∃ t, Host.Core.run Sys2Proof.core 2 s = .next t ∧
      be t.frame 4 4 = 0x0000012C ∧ be t.frame 2 4 = 0x1E020000

/-- No step changes the design parameters (10_state.md R43). -/
def Obligations.DesignParametersNeverChange : Prop :=
  ∀ s t : State, step s = .next t → t.params = s.params

/-! ### Reset and the invariant -/

/-- The registers after reset, for every parameter set a model is built for (10_state.md R45). -/
def Obligations.ResetRegisterValues : Prop :=
  ∀ (p : Params) (s : State), configure p = some s →
    s.cmd = 0x00000000 ∧ s.status = 0x00000000 ∧ s.bitlen = 0x00000000 ∧ s.cfg = 0x00000003 ∧
    s.crcPoly = 0x00001021 ∧ s.crcInit = 0x0000FFFF ∧ s.crcXorout = 0x0000FFFF ∧
    s.result = 0x00000000 ∧ s.crcRx = 0 ∧ s.crcCalc = 0 ∧ s.sncrcRx = 0 ∧ s.sncrcCalc = 0 ∧
    (∀ k : Fin 38, s.fields[k] = 0) ∧ s.params = p

/-- The reset event puts every register at its reset value, keeps the design parameters and runs no
command (70_reset_and_hazards.md R240, R241). That the host keeps its pending accesses and what it has
read is the model's own (log 14). -/
def Obligations.ResetEventRestoresRegisters : Prop :=
  ∀ (s : State) (rest : List HostAccess), paramsOk s.params = true → s.pending = .reset :: rest →
    ∃ t, step s = .next t ∧
      t.cmd = 0 ∧ t.status = 0 ∧ t.bitlen = 0 ∧ t.result = 0 ∧ t.crcRx = 0 ∧ t.crcCalc = 0 ∧
      t.sncrcRx = 0 ∧ t.sncrcCalc = 0 ∧ (∀ k : Fin 38, t.fields[k] = 0) ∧ t.cfg = 0x00000003 ∧
      t.crcPoly = 0x1021 ∧ t.crcInit = 0xFFFF ∧ t.crcXorout = 0xFFFF ∧
      statusOutcome t.status = 0 ∧ statusErr t.status = false ∧ t.params = s.params ∧
      t.pending = rest ∧ t.reads = s.reads

/-- Every step keeps the invariant (State.Inv names the rules of its parts). -/
def Obligations.EveryStepKeepsInv : Prop :=
  ∀ s t : State, s.Inv → step s = .next t → t.Inv

/-- The machine built for any well-formed parameter set meets the invariant at reset, and the default
set is well formed. -/
def Obligations.ResetStateMeetsInv : Prop :=
  (∀ (p : Params) (s : State), configure p = some s → s.Inv) ∧
  configure Params.default = some State.reset

/-! ### The record view -/

/-- There is a record exactly while the last command is a successful decode, and it is the record of the
format that `CMD[3:0]` names (43_record.md R160). -/
def Obligations.RecordExistsAfterSuccessfulDecode : Prop :=
  ∀ s : State, s.Inv →
    ((record s).isSome = true ↔ statusLastop s.status = 5 ∧ statusOutcome s.status = 1) ∧
    ((record s).isSome = true →
      s.cmd.extractLsb' 0 4 = 0 ∧ record s = some (scmpRecord s) ∨
      s.cmd.extractLsb' 0 4 = 1 ∧ record s = some (idmRecord s))

/-- The SCM+ record's names, order and values (43_record.md R161). That the two checksums agree under
enforcement is an inference that the spec marks as its own ("[derived: from 44_decode.md rule R192]"). -/
def Obligations.ScmpRecordContents : Prop :=
  ∀ s t : State, command 0x50000000 s = .next t → statusOutcome t.status = 1 →
    record t = some ([("model", .text "SCMplus"), ("protocol", .number (word (be s.frame 2 1))),
      ("scm_type", .number (word (be s.frame 3 1))), ("id", .number (word (be s.frame 4 4))),
      ("consumption_data", .number (word (be s.frame 8 4))),
      ("tamper", .number (word (be s.frame 12 2))), ("crc", .number (word (be s.frame 14 2))),
      ("calc_crc", .number ((crcv (byteRange s.frame 2 14) 0x1021 0xFFFF 0xFFFF).setWidth 32)),
      ("codes", .text (hexdump s.frame 16))] ++
      if s.cfg.getLsbD 0 then [("mic", .text "CRC")] else []) ∧
    (s.cfg.getLsbD 0 = true →
      (crcv (byteRange s.frame 2 14) 0x1021 0xFFFF 0xFFFF).setWidth 32 = word (be s.frame 14 2))

/-- The IDM record's names, order and values (43_record.md R162). -/
def Obligations.IdmRecordContents : Prop :=
  ∀ s t : State, command 0x50000001 s = .next t → statusOutcome t.status = 1 →
    record t = some ([("model", .text "IDM"), ("id", .number (word (be s.frame 9 4))),
      ("version", .number (word (be s.frame 7 1))),
      ("idm_type", .number (word ((s.frame.read 8).toNat % 16))),
      ("consumption_interval", .number (word (be s.frame 13 1))),
      ("programming_state", .number (word (be s.frame 14 1))),
      ("generation", .number (word (be s.frame 28 3))),
      ("consumption", .number (word (be s.frame 25 3))), ("net", .number (word (be s.frame 34 4))),
      ("sn_crc", .number (word (be s.frame 88 2))), ("packet_crc", .number (word (be s.frame 90 2))),
      ("codes", .text (hexdump s.frame 92))] ++
      if s.cfg.getLsbD 1 then [("mic", .text "CRC")] else [])

/-- The hex dump: two lower-case digits a byte, high nibble first, in frame order, and the `codes`
of a record dump the frame buffer as it stands (43_record.md R163). -/
def Obligations.HexdumpSpellsTheFrame : Prop :=
  (∀ (m : Memory) (n : Nat),
    hexdump m n = String.ofList (hexdumpChars m n) ∧ (hexdumpChars m n).length = 2 * n ∧
    ∀ i < n,
      (hexdumpChars m n)[2 * i]? = "0123456789abcdef".toList[(m.read i).toNat / 16]? ∧
      (hexdumpChars m n)[2 * i + 1]? = "0123456789abcdef".toList[(m.read i).toNat % 16]?) ∧
  (∀ s : State, ("codes", .text (hexdump s.frame 16)) ∈ scmpRecord s ∧
    ("codes", .text (hexdump s.frame 92)) ∈ idmRecord s)

/-- Any command but a decode ends the record view and leaves the field registers (43_record.md R166,
70_reset_and_hazards.md R254). -/
def Obligations.RecordEndsAtTheNextCommand : Prop :=
  ∀ (w : Word) (s : State), (∀ i, decode w = .ok i → isDecode i = false) →
    ∃ t, command w s = .next t ∧ record t = none ∧ t.fields = s.fields

/-! ### The assembler -/

/-- A command line assembles to one write of its word to `CMD`, which decodes to the command with the
line's operands; an operand out of range is an assembly error (30_encoding.md R93). -/
def Obligations.AssembledCommandsDecode : Prop :=
  (∀ base off len : Nat, if off < 256 ∧ len < 256 then
      ∃ w, assemble base (.crc off len) = .ok [.write base 32 w] ∧
        ∃ o l, decode w = .ok (.crc o l) ∧ o.toNat = off ∧ l.toNat = len
    else assemble base (.crc off len) = .error .operandRange) ∧
  (∀ base off n : Nat, if off < 256 ∧ 1 ≤ n ∧ n ≤ 4 then
      ∃ w, assemble base (.extu off n) = .ok [.write base 32 w] ∧
        ∃ o k, decode w = .ok (.extu o k) ∧ o.toNat = off ∧ k.toNat = n
    else assemble base (.extu off n) = .error .operandRange) ∧
  (∀ base pos n : Nat, if pos < 4096 ∧ 1 ≤ n ∧ n ≤ 32 then
      ∃ w, assemble base (.extb pos n) = .ok [.write base 32 w] ∧
        ∃ o k, decode w = .ok (.extb o k) ∧ o.toNat = pos ∧ k.toNat = n
    else assemble base (.extb pos n) = .error .operandRange) ∧
  (∀ base : Nat,
    assemble base .matchScmp = .ok [.write base 32 0x40000000] ∧
    assemble base .matchIdm = .ok [.write base 32 0x40000001] ∧
    assemble base .decodeScmp = .ok [.write base 32 0x50000000] ∧
    assemble base .decodeIdm = .ok [.write base 32 0x50000001]) ∧
  (∀ (base : Nat) (v : Word), assemble base (.rawCmd v.toNat) = .ok [.write base 32 v])

/-- `ldrow n, B0 …` leaves the row in the frame buffer, 0 in the rest of the row's last frame word, the
bytes past that word as they were, its length in `BITLEN`, and nothing else changed (30_encoding.md R95).
Which lines assemble is the model's own (log 19). -/
def Obligations.LdrowLoadsTheRow : Prop :=
  ∀ (s : State) (n : Nat) (row : List Nat) (l rest : List HostAccess), paramsOk s.params = true →
    n < 2 ^ 16 → assemble s.params.base (.ldrow n row) = .ok l → s.pending = l ++ rest →
    ∃ t, Host.Core.run Sys2Proof.core l.length s = .next t ∧ t.pending = rest ∧
      t.bitlen.toNat = n ∧ (∀ i < row.length, (t.frame.read i).toNat = row.getD i 0) ∧
      (∀ a, row.length ≤ a → a < 4 * ((row.length + 3) / 4) → t.frame.read a = 0) ∧
      (∀ a, 4 * ((row.length + 3) / 4) ≤ a → t.frame.read a = s.frame.read a) ∧
      t = { s with pending := rest, bitlen := t.bitlen, frame := t.frame }

/-- The other pseudo-instructions stand for their expansions (30_encoding.md R95). -/
def Obligations.PseudoInstructionsExpand : Prop :=
  ∀ base : Nat,
    (∀ p i x : Word, assemble base (.crcparams p.toNat i.toNat x.toNat) =
      .ok [.write (base + 0x010) 32 p, .write (base + 0x014) 32 i, .write (base + 0x018) 32 x]) ∧
    (∀ off, assemble base (.exthi off) = assemble base (.extb (8 * off) 4)) ∧
    (∀ off, assemble base (.extlo off) = assemble base (.extb (8 * off + 4) 4)) ∧
    (∀ j, assemble base (.extiv j) =
      if j ≤ 26 then assemble base (.extb (320 + 14 * j) 14) else .error .operandRange) ∧
    assemble base .nop = .ok []
end

