-- ==== Sys2Proof/Laws/Crc.lean ====
section
/-! SUPPORT. The CRC16 engine's equations. -/

namespace Sys2Proof.Machine

open Sys2Proof

@[simp] theorem withRegister_eq {α : Type} (r : Half) (k : Half → α) : withRegister r k = k r := by
  unfold withRegister
  split
  · next h => congr 1; exact BitVec.eq_of_toNat_eq (by simp [h])
  · next n h =>
    congr 1
    exact BitVec.eq_of_toNat_eq (by simp only [BitVec.toNat_ofNat]; omega)

@[simp] theorem crc16_nil (poly r : Half) : crc16 [] poly r = r := rfl

@[simp] theorem crc16_cons (b : Byte) (seq : List Byte) (poly r : Half) :
    crc16 (b :: seq) poly r = crc16 seq poly (crcByte poly r b) := by
  simp [crc16]

theorem crc16_append (a b : List Byte) (poly r : Half) :
    crc16 (a ++ b) poly r = crc16 b poly (crc16 a poly r) := by
  induction a generalizing r with
  | nil => rfl
  | cons x a ih => simp [ih]

/-- One round, bit by bit: bit 0 becomes the polynomial's when bit 15 was set. -/
theorem crcShift_eq (poly r : Half) :
    crcShift poly r = (r <<< 1) ^^^ (if r.getLsbD 15 then poly else 0) := by
  unfold crcShift; split <;> simp

/-- A round is linear in the register. -/
theorem crcShift_xor (poly r r' : Half) :
    crcShift poly (r ^^^ r') = crcShift poly r ^^^ crcShift poly r' := by
  simp only [crcShift_eq, BitVec.shiftLeft_xor_distrib, BitVec.getLsbD_xor]
  cases r.getLsbD 15 <;> cases r'.getLsbD 15 <;> ext i hi <;> simp <;> grind

theorem crcShift_zero (poly : Half) : crcShift poly 0 = 0 := by simp [crcShift]

/-- With an odd polynomial a round loses no register value. -/
theorem crcShift_eq_zero {poly r : Half} (hp : poly.getLsbD 0 = true) (h : crcShift poly r = 0) :
    r = 0 := by
  rw [crcShift_eq] at h
  cases h15 : r.getLsbD 15 with
  | true =>
    have := congrArg (fun v => v.getLsbD 0) h
    simp [h15, hp, -BitVec.getLsbD_eq_getElem] at this
  | false =>
    simp only [h15, Bool.false_eq_true, if_false] at h
    ext i hi
    have := congrArg (fun v => v.getLsbD (i + 1)) h
    by_cases hi' : i = 15
    · subst hi'; simpa [BitVec.getLsbD_eq_getElem] using h15
    · have hb : i + 1 < 16 := by omega
      simp [hb] at this
      simpa [BitVec.getLsbD_eq_getElem] using this

end Sys2Proof.Machine
end

