-- ==== Sys2Proof/Laws/Flags.lean ====
section
/-! SUPPORT. The fields of `STATUS` under each update, and the 16-bit halves of the registers. -/

namespace Sys2Proof.Machine

open Sys2Proof

theorem getLsbD_withOutcome (c : BitVec 4) (st : Word) (i : Nat) :
    (withOutcome c st).getLsbD i = if i < 4 then c.getLsbD i else st.getLsbD i := by
  change (st.extractLsb' 4 28 ++ c).getLsbD i = _
  rw [BitVec.getLsbD_append]
  grind

theorem getLsbD_withLastop (c : BitVec 4) (st : Word) (i : Nat) :
    (withLastop c st).getLsbD i =
      if 4 ≤ i ∧ i < 8 then c.getLsbD (i - 4) else st.getLsbD i := by
  change (st.extractLsb' 8 24 ++ c ++ st.extractLsb' 0 4).getLsbD i = _
  rw [BitVec.getLsbD_append, BitVec.getLsbD_append]
  grind

theorem getLsbD_withErr (b : Bool) (st : Word) (i : Nat) :
    (withErr b st).getLsbD i = if i = 8 then b else st.getLsbD i := by
  change (st.extractLsb' 9 23 ++ BitVec.ofBool b ++ st.extractLsb' 0 8).getLsbD i = _
  rw [BitVec.getLsbD_append, BitVec.getLsbD_append]
  grind [BitVec.getLsbD_ofBool]

theorem getLsbD_withMic (b : Bool) (st : Word) (i : Nat) :
    (withMic b st).getLsbD i = if i = 9 then b else st.getLsbD i := by
  change (st.extractLsb' 10 22 ++ BitVec.ofBool b ++ st.extractLsb' 0 9).getLsbD i = _
  rw [BitVec.getLsbD_append, BitVec.getLsbD_append]
  grind [BitVec.getLsbD_ofBool]


@[simp] theorem statusOutcome_withOutcome (c st) : statusOutcome (withOutcome c st) = c := by
  apply BitVec.eq_of_getLsbD_eq; intro i hi
  simp only [statusOutcome, BitVec.getLsbD_extractLsb', getLsbD_withOutcome]; grind
@[simp] theorem statusLastop_withOutcome (c st) : statusLastop (withOutcome c st) = statusLastop st := by
  apply BitVec.eq_of_getLsbD_eq; intro i hi
  simp only [statusLastop, BitVec.getLsbD_extractLsb', getLsbD_withOutcome]; grind
@[simp] theorem statusErr_withOutcome (c st) : statusErr (withOutcome c st) = statusErr st := by
  simp only [statusErr, getLsbD_withOutcome]; rfl
@[simp] theorem statusMic_withOutcome (c st) : statusMic (withOutcome c st) = statusMic st := by
  simp only [statusMic, getLsbD_withOutcome]; rfl
@[simp] theorem reserved_withOutcome (c st) :
    (withOutcome c st).extractLsb' 10 22 = st.extractLsb' 10 22 := by
  apply BitVec.eq_of_getLsbD_eq; intro i hi
  simp only [BitVec.getLsbD_extractLsb', getLsbD_withOutcome]; grind

@[simp] theorem statusOutcome_withLastop (c st) : statusOutcome (withLastop c st) = statusOutcome st := by
  apply BitVec.eq_of_getLsbD_eq; intro i hi
  simp only [statusOutcome, BitVec.getLsbD_extractLsb', getLsbD_withLastop]; grind
@[simp] theorem statusLastop_withLastop (c st) : statusLastop (withLastop c st) = c := by
  apply BitVec.eq_of_getLsbD_eq; intro i hi
  simp only [statusLastop, BitVec.getLsbD_extractLsb', getLsbD_withLastop]; grind
@[simp] theorem statusErr_withLastop (c st) : statusErr (withLastop c st) = statusErr st := by
  simp only [statusErr, getLsbD_withLastop]; rfl
@[simp] theorem statusMic_withLastop (c st) : statusMic (withLastop c st) = statusMic st := by
  simp only [statusMic, getLsbD_withLastop]; rfl
@[simp] theorem reserved_withLastop (c st) :
    (withLastop c st).extractLsb' 10 22 = st.extractLsb' 10 22 := by
  apply BitVec.eq_of_getLsbD_eq; intro i hi
  simp only [BitVec.getLsbD_extractLsb', getLsbD_withLastop]; grind

@[simp] theorem statusOutcome_withErr (b st) : statusOutcome (withErr b st) = statusOutcome st := by
  apply BitVec.eq_of_getLsbD_eq; intro i hi
  simp only [statusOutcome, BitVec.getLsbD_extractLsb', getLsbD_withErr]; grind
@[simp] theorem statusLastop_withErr (b st) : statusLastop (withErr b st) = statusLastop st := by
  apply BitVec.eq_of_getLsbD_eq; intro i hi
  simp only [statusLastop, BitVec.getLsbD_extractLsb', getLsbD_withErr]; grind
@[simp] theorem statusErr_withErr (b st) : statusErr (withErr b st) = b := by
  simp only [statusErr, getLsbD_withErr]; rfl
@[simp] theorem statusMic_withErr (b st) : statusMic (withErr b st) = statusMic st := by
  simp only [statusMic, getLsbD_withErr]; rfl
@[simp] theorem reserved_withErr (b st) :
    (withErr b st).extractLsb' 10 22 = st.extractLsb' 10 22 := by
  apply BitVec.eq_of_getLsbD_eq; intro i hi
  simp only [BitVec.getLsbD_extractLsb', getLsbD_withErr]; grind

@[simp] theorem statusOutcome_withMic (b st) : statusOutcome (withMic b st) = statusOutcome st := by
  apply BitVec.eq_of_getLsbD_eq; intro i hi
  simp only [statusOutcome, BitVec.getLsbD_extractLsb', getLsbD_withMic]; grind
@[simp] theorem statusLastop_withMic (b st) : statusLastop (withMic b st) = statusLastop st := by
  apply BitVec.eq_of_getLsbD_eq; intro i hi
  simp only [statusLastop, BitVec.getLsbD_extractLsb', getLsbD_withMic]; grind
@[simp] theorem statusErr_withMic (b st) : statusErr (withMic b st) = statusErr st := by
  simp only [statusErr, getLsbD_withMic]; rfl
@[simp] theorem statusMic_withMic (b st) : statusMic (withMic b st) = b := by
  simp only [statusMic, getLsbD_withMic]; rfl
@[simp] theorem reserved_withMic (b st) :
    (withMic b st).extractLsb' 10 22 = st.extractLsb' 10 22 := by
  apply BitVec.eq_of_getLsbD_eq; intro i hi
  simp only [BitVec.getLsbD_extractLsb', getLsbD_withMic]; grind

/-- `STATUS` is its fields and its reserved bits. -/
theorem status_ext {st st' : Word} (h0 : statusOutcome st = statusOutcome st')
    (h1 : statusLastop st = statusLastop st') (h2 : statusErr st = statusErr st')
    (h3 : statusMic st = statusMic st') (h4 : st.extractLsb' 10 22 = st'.extractLsb' 10 22) :
    st = st' := by
  ext i hi
  have e0 := congrArg (fun v => v.getLsbD i) h0
  have e1 := congrArg (fun v => v.getLsbD (i - 4)) h1
  have e4 := congrArg (fun v => v.getLsbD (i - 10)) h4
  simp only [statusOutcome, statusLastop, BitVec.getLsbD_extractLsb'] at e0 e1 e4
  simp only [statusErr, statusMic] at h2 h3
  rw [← BitVec.getLsbD_eq_getElem, ← BitVec.getLsbD_eq_getElem]
  by_cases a : i < 4
  · simpa [a] using e0
  by_cases b : i < 8
  · have : 4 + (i - 4) = i := by omega
    have h : i - 4 < 4 := by omega
    simpa [this, h] using e1
  by_cases c : i = 8
  · simpa [c] using h2
  by_cases d : i = 9
  · simpa [d] using h3
  have : 10 + (i - 10) = i := by omega
  have h : i - 10 < 22 := by omega
  simpa [this, h] using e4

/-! ### finish -/

@[simp] theorem statusOutcome_finishStatus (o st) : statusOutcome (finishStatus o st) = o.code := by
  unfold finishStatus; split <;> simp
@[simp] theorem statusLastop_finishStatus (o st) :
    statusLastop (finishStatus o st) = statusLastop st := by
  unfold finishStatus; split <;> simp
@[simp] theorem statusErr_finishStatus (o st) :
    statusErr (finishStatus o st) = (o.isError || statusErr st) := by
  unfold finishStatus; split <;> simp_all
@[simp] theorem statusMic_finishStatus (o st) :
    statusMic (finishStatus o st) = statusMic st := by
  unfold finishStatus; split <;> simp
@[simp] theorem reserved_finishStatus (o st) :
    (finishStatus o st).extractLsb' 10 22 = st.extractLsb' 10 22 := by
  unfold finishStatus; split <;> simp

theorem OutcomeCode.code_le (o : OutcomeCode) : o.code.toNat ≤ 6 := by cases o <;> decide
theorem OutcomeCode.code_injective {o o' : OutcomeCode} (h : o.code = o'.code) : o = o' := by
  cases o <;> cases o' <;> first | rfl | exact absurd h (by decide)
theorem OutcomeCode.isError_iff (o : OutcomeCode) : o.isError = true ↔ 5 ≤ o.code.toNat := by
  cases o <;> decide

/-! ### Halves -/

@[simp] theorem lowHalf_ofHalf (h : Half) : lowHalf (ofHalf h) = h := by
  apply BitVec.eq_of_getLsbD_eq; intro i hi
  simp [lowHalf, ofHalf, hi]; omega
@[simp] theorem upper_ofHalf (h : Half) : (ofHalf h).extractLsb' 16 16 = 0 := by
  ext i hi; simp [ofHalf]
@[simp] theorem ofHalf_zero : ofHalf 0 = 0 := by decide
theorem ofHalf_injective {a b : Half} (h : ofHalf a = ofHalf b) : a = b := by
  simpa using congrArg lowHalf h

end Sys2Proof.Machine
end

