-- ==== Sys2Proof/Laws/Memory.lean ====
section
/-! SUPPORT. The frame buffer: read after write, and the canonical form is kept. -/

namespace Sys2Proof.Machine

open Sys2Proof

@[simp] theorem Memory.read_write (m : Memory) (a b : Nat) (v : Byte) :
    (m.write a v).read b = if b = a then v else m.read b := by
  induction m with
  | nil => rfl
  | cons c m ih =>
    obtain ⟨d, x⟩ := c
    simp only [Memory.write]
    split
    · subst d; simp only [Memory.read]; split <;> simp_all
    · split
      · rfl
      · simp only [Memory.read, ih]; grind

/-- A write to an address of the buffer leaves the listed addresses as they are. -/
theorem Memory.map_fst_write (m : Memory) (a : Nat) (v : Byte) (ha : a ∈ m.map Prod.fst)
    (hs : (m.map Prod.fst).Pairwise (· < ·)) : (m.write a v).map Prod.fst = m.map Prod.fst := by
  induction m with
  | nil => simp at ha
  | cons c m ih =>
    obtain ⟨d, x⟩ := c
    simp only [List.map_cons, List.pairwise_cons] at hs
    simp only [Memory.write]
    split
    · simp_all
    · next h =>
      have hm : a ∈ m.map Prod.fst := by simpa [h] using ha
      have := hs.1 a hm
      rw [if_neg (by omega)]
      simp [ih hm hs.2]

theorem Memory.wf_iff (m : Memory) : m.wf = true ↔ m.map Prod.fst = List.range 92 := by
  simp [Memory.wf, Config.fbBytes]

theorem Memory.wf_write (m : Memory) (a : Nat) (v : Byte) (h : m.wf = true) (ha : a < 92) :
    (m.write a v).wf = true := by
  rw [Memory.wf_iff] at *
  rw [Memory.map_fst_write m a v (by simp [h, ha]) (by rw [h]; exact List.pairwise_lt_range), h]

theorem Memory.wf_writeWord (m : Memory) (j : Nat) (v : Word) (h : m.wf = true) (hj : j < 23) :
    (m.writeWord j v).wf = true := by
  unfold Memory.writeWord
  repeat' apply Memory.wf_write
  all_goals first | assumption | omega

@[simp] theorem Memory.wf_drawn (d : Nat) : (Memory.drawn d).wf = true := by
  rw [Memory.wf_iff]; simp [Memory.drawn, Function.comp_def, Config.fbBytes]

/-- Two canonical buffers that read alike are equal. -/
theorem Memory.ext_of_wf {m m' : Memory} (h : m.wf = true) (h' : m'.wf = true)
    (hr : AgreeBelow 92 m m') : m = m' := by
  rw [Memory.wf_iff] at h h'
  have key : ∀ (l : List Nat) (m m' : Memory), l.Nodup → m.map Prod.fst = l → m'.map Prod.fst = l →
      (∀ a ∈ l, m.read a = m'.read a) → m = m' := by
    intro l
    induction l with
    | nil => intro m m' _ e e' _; simp_all
    | cons a l ih =>
      intro m m' hn e e' hr
      cases m with
      | nil => simp at e
      | cons c m =>
        cases m' with
        | nil => simp at e'
        | cons c' m' =>
          obtain ⟨d, x⟩ := c
          obtain ⟨d', x'⟩ := c'
          simp only [List.map_cons, List.cons.injEq] at e e'
          simp only [List.nodup_cons] at hn
          obtain ⟨rfl, e⟩ := e
          obtain ⟨rfl, e'⟩ := e'
          have hx := hr d' (by simp)
          simp only [Memory.read, if_true] at hx
          rw [hx, ih m m' hn.2 e e']
          intro a ha
          have hne : a ≠ d' := fun h => hn.1 (h ▸ ha)
          have := hr a (by simp [ha])
          simpa [Memory.read, hne] using this
  exact key (List.range 92) m m' List.nodup_range h h' fun a ha => hr a (by simpa using ha)

theorem Memory.read_writeWord (m : Memory) (j a : Nat) (v : Word) :
    (m.writeWord j v).read a =
      if a = 4 * j + 3 then v.extractLsb' 0 8 else if a = 4 * j + 2 then v.extractLsb' 8 8
      else if a = 4 * j + 1 then v.extractLsb' 16 8 else if a = 4 * j then v.extractLsb' 24 8
      else m.read a := by
  simp [Memory.writeWord]

/-- `FBW[j]` reads back what was written to it. -/
theorem Memory.readWord_writeWord (m : Memory) (j : Nat) (v : Word) :
    (m.writeWord j v).readWord j = v := by
  simp only [Memory.readWord, Memory.read_writeWord]
  ext i hi
  simp
  grind

@[simp] theorem byteRange_length (m : Memory) (a b : Nat) : (byteRange m a b).length = b - a := by
  simp [byteRange]

@[simp] theorem byteRange_getElem (m : Memory) (a b i : Nat) (h : i < (byteRange m a b).length) :
    (byteRange m a b)[i] = m.read (a + i) := by
  simp [byteRange]

/-- The declared row in whole bytes, as the statements write it (42_extract.md R143). -/
theorem availBytes_eq (s : State) :
    availBytes s = min 92 ((s.bitlen.extractLsb' 0 16).toNat / 8) := rfl

/-- A byte range depends on its own bytes only. -/
theorem byteRange_congr {m m' : Memory} {a b : Nat} (h : ∀ i, a ≤ i → i < b → m.read i = m'.read i) :
    byteRange m a b = byteRange m' a b := by
  unfold byteRange
  refine List.map_congr_left fun j hj => h _ (by omega) ?_
  simp at hj; omega

/-- A byte field depends on its own bytes only. -/
theorem be_congr {m m' : Memory} {off w : Nat}
    (h : ∀ i, off ≤ i → i < off + w → m.read i = m'.read i) : be m off w = be m' off w := by
  unfold be
  congr 1
  refine List.map_congr_left fun j hj => ?_
  simp at hj
  rw [h _ (by omega) (by omega)]

/-- A bit field depends on its own bits' bytes only. -/
theorem bits_congr {m m' : Memory} {pos w : Nat}
    (h : ∀ i, pos / 8 ≤ i → 8 * i < pos + w → m.read i = m'.read i) :
    bits m pos w = bits m' pos w := by
  unfold bits streamBit
  congr 1
  refine List.map_congr_left fun j hj => ?_
  simp at hj
  rw [h _ (by omega) (by omega)]

end Sys2Proof.Machine
end

