-- ==== Sys2Proof/Laws/State.lean ====
section
/-! SUPPORT. One lemma per field per update of State: what each named operation leaves in it. -/

namespace Sys2Proof.Machine

open Sys2Proof

section finish
variable (o : OutcomeCode) (s : State)

@[simp] theorem finish_cmd : (finish o s).cmd = s.cmd := rfl
@[simp] theorem finish_status : (finish o s).status = finishStatus o s.status := rfl
@[simp] theorem finish_bitlen : (finish o s).bitlen = s.bitlen := rfl
@[simp] theorem finish_cfg : (finish o s).cfg = s.cfg := rfl
@[simp] theorem finish_crcPoly : (finish o s).crcPoly = s.crcPoly := rfl
@[simp] theorem finish_crcInit : (finish o s).crcInit = s.crcInit := rfl
@[simp] theorem finish_crcXorout : (finish o s).crcXorout = s.crcXorout := rfl
@[simp] theorem finish_result : (finish o s).result = s.result := rfl
@[simp] theorem finish_crcRx : (finish o s).crcRx = s.crcRx := rfl
@[simp] theorem finish_crcCalc : (finish o s).crcCalc = s.crcCalc := rfl
@[simp] theorem finish_sncrcRx : (finish o s).sncrcRx = s.sncrcRx := rfl
@[simp] theorem finish_sncrcCalc : (finish o s).sncrcCalc = s.sncrcCalc := rfl
@[simp] theorem finish_fields : (finish o s).fields = s.fields := rfl
@[simp] theorem finish_frame : (finish o s).frame = s.frame := rfl
@[simp] theorem finish_params : (finish o s).params = s.params := rfl
@[simp] theorem finish_draw : (finish o s).draw = s.draw := rfl
@[simp] theorem finish_pending : (finish o s).pending = s.pending := rfl
@[simp] theorem finish_reads : (finish o s).reads = s.reads := rfl

end finish

section latch
variable (w : Word) (s : State)

@[simp] theorem latch_cmd : (latch w s).cmd = w := rfl
@[simp] theorem latch_status : (latch w s).status = withLastop (opField w) s.status := rfl
@[simp] theorem latch_bitlen : (latch w s).bitlen = s.bitlen := rfl
@[simp] theorem latch_cfg : (latch w s).cfg = s.cfg := rfl
@[simp] theorem latch_crcPoly : (latch w s).crcPoly = s.crcPoly := rfl
@[simp] theorem latch_crcInit : (latch w s).crcInit = s.crcInit := rfl
@[simp] theorem latch_crcXorout : (latch w s).crcXorout = s.crcXorout := rfl
@[simp] theorem latch_result : (latch w s).result = s.result := rfl
@[simp] theorem latch_crcRx : (latch w s).crcRx = s.crcRx := rfl
@[simp] theorem latch_crcCalc : (latch w s).crcCalc = s.crcCalc := rfl
@[simp] theorem latch_sncrcRx : (latch w s).sncrcRx = s.sncrcRx := rfl
@[simp] theorem latch_sncrcCalc : (latch w s).sncrcCalc = s.sncrcCalc := rfl
@[simp] theorem latch_fields : (latch w s).fields = s.fields := rfl
@[simp] theorem latch_frame : (latch w s).frame = s.frame := rfl
@[simp] theorem latch_params : (latch w s).params = s.params := rfl
@[simp] theorem latch_draw : (latch w s).draw = s.draw := rfl
@[simp] theorem latch_pending : (latch w s).pending = s.pending := rfl
@[simp] theorem latch_reads : (latch w s).reads = s.reads := rfl

end latch

section setResult
variable (v : Word) (s : State)

@[simp] theorem setResult_cmd : (setResult v s).cmd = s.cmd := rfl
@[simp] theorem setResult_status : (setResult v s).status = s.status := rfl
@[simp] theorem setResult_bitlen : (setResult v s).bitlen = s.bitlen := rfl
@[simp] theorem setResult_cfg : (setResult v s).cfg = s.cfg := rfl
@[simp] theorem setResult_crcPoly : (setResult v s).crcPoly = s.crcPoly := rfl
@[simp] theorem setResult_crcInit : (setResult v s).crcInit = s.crcInit := rfl
@[simp] theorem setResult_crcXorout : (setResult v s).crcXorout = s.crcXorout := rfl
@[simp] theorem setResult_result : (setResult v s).result = v := rfl
@[simp] theorem setResult_crcRx : (setResult v s).crcRx = s.crcRx := rfl
@[simp] theorem setResult_crcCalc : (setResult v s).crcCalc = s.crcCalc := rfl
@[simp] theorem setResult_sncrcRx : (setResult v s).sncrcRx = s.sncrcRx := rfl
@[simp] theorem setResult_sncrcCalc : (setResult v s).sncrcCalc = s.sncrcCalc := rfl
@[simp] theorem setResult_fields : (setResult v s).fields = s.fields := rfl
@[simp] theorem setResult_frame : (setResult v s).frame = s.frame := rfl
@[simp] theorem setResult_params : (setResult v s).params = s.params := rfl
@[simp] theorem setResult_draw : (setResult v s).draw = s.draw := rfl
@[simp] theorem setResult_pending : (setResult v s).pending = s.pending := rfl
@[simp] theorem setResult_reads : (setResult v s).reads = s.reads := rfl

end setResult

section setFields
variable (l : List Word) (s : State)

@[simp] theorem setFields_cmd : (setFields l s).cmd = s.cmd := rfl
@[simp] theorem setFields_status : (setFields l s).status = s.status := rfl
@[simp] theorem setFields_bitlen : (setFields l s).bitlen = s.bitlen := rfl
@[simp] theorem setFields_cfg : (setFields l s).cfg = s.cfg := rfl
@[simp] theorem setFields_crcPoly : (setFields l s).crcPoly = s.crcPoly := rfl
@[simp] theorem setFields_crcInit : (setFields l s).crcInit = s.crcInit := rfl
@[simp] theorem setFields_crcXorout : (setFields l s).crcXorout = s.crcXorout := rfl
@[simp] theorem setFields_result : (setFields l s).result = s.result := rfl
@[simp] theorem setFields_crcRx : (setFields l s).crcRx = s.crcRx := rfl
@[simp] theorem setFields_crcCalc : (setFields l s).crcCalc = s.crcCalc := rfl
@[simp] theorem setFields_sncrcRx : (setFields l s).sncrcRx = s.sncrcRx := rfl
@[simp] theorem setFields_sncrcCalc : (setFields l s).sncrcCalc = s.sncrcCalc := rfl
@[simp] theorem setFields_fields : (setFields l s).fields = fieldFile l := rfl
@[simp] theorem setFields_frame : (setFields l s).frame = s.frame := rfl
@[simp] theorem setFields_params : (setFields l s).params = s.params := rfl
@[simp] theorem setFields_draw : (setFields l s).draw = s.draw := rfl
@[simp] theorem setFields_pending : (setFields l s).pending = s.pending := rfl
@[simp] theorem setFields_reads : (setFields l s).reads = s.reads := rfl

end setFields

section setDiagnostics
variable (a b c d : Half) (s : State)

@[simp] theorem setDiagnostics_cmd : (setDiagnostics a b c d s).cmd = s.cmd := rfl
@[simp] theorem setDiagnostics_status : (setDiagnostics a b c d s).status = s.status := rfl
@[simp] theorem setDiagnostics_bitlen : (setDiagnostics a b c d s).bitlen = s.bitlen := rfl
@[simp] theorem setDiagnostics_cfg : (setDiagnostics a b c d s).cfg = s.cfg := rfl
@[simp] theorem setDiagnostics_crcPoly : (setDiagnostics a b c d s).crcPoly = s.crcPoly := rfl
@[simp] theorem setDiagnostics_crcInit : (setDiagnostics a b c d s).crcInit = s.crcInit := rfl
@[simp] theorem setDiagnostics_crcXorout : (setDiagnostics a b c d s).crcXorout = s.crcXorout := rfl
@[simp] theorem setDiagnostics_result : (setDiagnostics a b c d s).result = s.result := rfl
@[simp] theorem setDiagnostics_crcRx : (setDiagnostics a b c d s).crcRx = ofHalf a := rfl
@[simp] theorem setDiagnostics_crcCalc : (setDiagnostics a b c d s).crcCalc = ofHalf b := rfl
@[simp] theorem setDiagnostics_sncrcRx : (setDiagnostics a b c d s).sncrcRx = ofHalf c := rfl
@[simp] theorem setDiagnostics_sncrcCalc : (setDiagnostics a b c d s).sncrcCalc = ofHalf d := rfl
@[simp] theorem setDiagnostics_fields : (setDiagnostics a b c d s).fields = s.fields := rfl
@[simp] theorem setDiagnostics_frame : (setDiagnostics a b c d s).frame = s.frame := rfl
@[simp] theorem setDiagnostics_params : (setDiagnostics a b c d s).params = s.params := rfl
@[simp] theorem setDiagnostics_draw : (setDiagnostics a b c d s).draw = s.draw := rfl
@[simp] theorem setDiagnostics_pending : (setDiagnostics a b c d s).pending = s.pending := rfl
@[simp] theorem setDiagnostics_reads : (setDiagnostics a b c d s).reads = s.reads := rfl

end setDiagnostics

section setMic
variable (b : Bool) (s : State)

@[simp] theorem setMic_cmd : (setMic b s).cmd = s.cmd := rfl
@[simp] theorem setMic_status : (setMic b s).status = withMic b s.status := rfl
@[simp] theorem setMic_bitlen : (setMic b s).bitlen = s.bitlen := rfl
@[simp] theorem setMic_cfg : (setMic b s).cfg = s.cfg := rfl
@[simp] theorem setMic_crcPoly : (setMic b s).crcPoly = s.crcPoly := rfl
@[simp] theorem setMic_crcInit : (setMic b s).crcInit = s.crcInit := rfl
@[simp] theorem setMic_crcXorout : (setMic b s).crcXorout = s.crcXorout := rfl
@[simp] theorem setMic_result : (setMic b s).result = s.result := rfl
@[simp] theorem setMic_crcRx : (setMic b s).crcRx = s.crcRx := rfl
@[simp] theorem setMic_crcCalc : (setMic b s).crcCalc = s.crcCalc := rfl
@[simp] theorem setMic_sncrcRx : (setMic b s).sncrcRx = s.sncrcRx := rfl
@[simp] theorem setMic_sncrcCalc : (setMic b s).sncrcCalc = s.sncrcCalc := rfl
@[simp] theorem setMic_fields : (setMic b s).fields = s.fields := rfl
@[simp] theorem setMic_frame : (setMic b s).frame = s.frame := rfl
@[simp] theorem setMic_params : (setMic b s).params = s.params := rfl
@[simp] theorem setMic_draw : (setMic b s).draw = s.draw := rfl
@[simp] theorem setMic_pending : (setMic b s).pending = s.pending := rfl
@[simp] theorem setMic_reads : (setMic b s).reads = s.reads := rfl

end setMic

section decodePrologue
variable (s : State)

@[simp] theorem decodePrologue_cmd : (decodePrologue s).cmd = s.cmd := rfl
@[simp] theorem decodePrologue_status : (decodePrologue s).status = withMic false s.status := rfl
@[simp] theorem decodePrologue_bitlen : (decodePrologue s).bitlen = s.bitlen := rfl
@[simp] theorem decodePrologue_cfg : (decodePrologue s).cfg = s.cfg := rfl
@[simp] theorem decodePrologue_crcPoly : (decodePrologue s).crcPoly = s.crcPoly := rfl
@[simp] theorem decodePrologue_crcInit : (decodePrologue s).crcInit = s.crcInit := rfl
@[simp] theorem decodePrologue_crcXorout : (decodePrologue s).crcXorout = s.crcXorout := rfl
@[simp] theorem decodePrologue_result : (decodePrologue s).result = s.result := rfl
@[simp] theorem decodePrologue_crcRx : (decodePrologue s).crcRx = 0 := rfl
@[simp] theorem decodePrologue_crcCalc : (decodePrologue s).crcCalc = 0 := rfl
@[simp] theorem decodePrologue_sncrcRx : (decodePrologue s).sncrcRx = 0 := rfl
@[simp] theorem decodePrologue_sncrcCalc : (decodePrologue s).sncrcCalc = 0 := rfl
@[simp] theorem decodePrologue_fields : (decodePrologue s).fields = fieldFile [] := rfl
@[simp] theorem decodePrologue_frame : (decodePrologue s).frame = s.frame := rfl
@[simp] theorem decodePrologue_params : (decodePrologue s).params = s.params := rfl
@[simp] theorem decodePrologue_draw : (decodePrologue s).draw = s.draw := rfl
@[simp] theorem decodePrologue_pending : (decodePrologue s).pending = s.pending := rfl
@[simp] theorem decodePrologue_reads : (decodePrologue s).reads = s.reads := rfl

end decodePrologue

section writeDiagnostics
variable (f : FrameSpec) (s : State)

@[simp] theorem writeDiagnostics_cmd : (writeDiagnostics f s).cmd = s.cmd := rfl
@[simp] theorem writeDiagnostics_status : (writeDiagnostics f s).status = s.status := rfl
@[simp] theorem writeDiagnostics_bitlen : (writeDiagnostics f s).bitlen = s.bitlen := rfl
@[simp] theorem writeDiagnostics_cfg : (writeDiagnostics f s).cfg = s.cfg := rfl
@[simp] theorem writeDiagnostics_crcPoly : (writeDiagnostics f s).crcPoly = s.crcPoly := rfl
@[simp] theorem writeDiagnostics_crcInit : (writeDiagnostics f s).crcInit = s.crcInit := rfl
@[simp] theorem writeDiagnostics_crcXorout : (writeDiagnostics f s).crcXorout = s.crcXorout := rfl
@[simp] theorem writeDiagnostics_result : (writeDiagnostics f s).result = s.result := rfl
@[simp] theorem writeDiagnostics_crcRx : (writeDiagnostics f s).crcRx = ofHalf (receivedCrc s.frame f.crc) := rfl
@[simp] theorem writeDiagnostics_crcCalc : (writeDiagnostics f s).crcCalc = ofHalf (computedCrc s.frame f.crc) := rfl
@[simp] theorem writeDiagnostics_sncrcRx : (writeDiagnostics f s).sncrcRx = ofHalf (snReceived f s.frame) := rfl
@[simp] theorem writeDiagnostics_sncrcCalc : (writeDiagnostics f s).sncrcCalc = ofHalf (snComputed f s.frame) := rfl
@[simp] theorem writeDiagnostics_fields : (writeDiagnostics f s).fields = s.fields := rfl
@[simp] theorem writeDiagnostics_frame : (writeDiagnostics f s).frame = s.frame := rfl
@[simp] theorem writeDiagnostics_params : (writeDiagnostics f s).params = s.params := rfl
@[simp] theorem writeDiagnostics_draw : (writeDiagnostics f s).draw = s.draw := rfl
@[simp] theorem writeDiagnostics_pending : (writeDiagnostics f s).pending = s.pending := rfl
@[simp] theorem writeDiagnostics_reads : (writeDiagnostics f s).reads = s.reads := rfl

end writeDiagnostics

section hostRead
variable (r : Reg) (s : State)

@[simp] theorem hostRead_cmd : (hostRead r s).cmd = s.cmd := rfl
@[simp] theorem hostRead_status : (hostRead r s).status = s.status := rfl
@[simp] theorem hostRead_bitlen : (hostRead r s).bitlen = s.bitlen := rfl
@[simp] theorem hostRead_cfg : (hostRead r s).cfg = s.cfg := rfl
@[simp] theorem hostRead_crcPoly : (hostRead r s).crcPoly = s.crcPoly := rfl
@[simp] theorem hostRead_crcInit : (hostRead r s).crcInit = s.crcInit := rfl
@[simp] theorem hostRead_crcXorout : (hostRead r s).crcXorout = s.crcXorout := rfl
@[simp] theorem hostRead_result : (hostRead r s).result = s.result := rfl
@[simp] theorem hostRead_crcRx : (hostRead r s).crcRx = s.crcRx := rfl
@[simp] theorem hostRead_crcCalc : (hostRead r s).crcCalc = s.crcCalc := rfl
@[simp] theorem hostRead_sncrcRx : (hostRead r s).sncrcRx = s.sncrcRx := rfl
@[simp] theorem hostRead_sncrcCalc : (hostRead r s).sncrcCalc = s.sncrcCalc := rfl
@[simp] theorem hostRead_fields : (hostRead r s).fields = s.fields := rfl
@[simp] theorem hostRead_frame : (hostRead r s).frame = s.frame := rfl
@[simp] theorem hostRead_params : (hostRead r s).params = s.params := rfl
@[simp] theorem hostRead_draw : (hostRead r s).draw = s.draw := rfl
@[simp] theorem hostRead_pending : (hostRead r s).pending = s.pending := rfl
@[simp] theorem hostRead_reads : (hostRead r s).reads = readReg r s :: s.reads := rfl

end hostRead

section hostReset
variable (s : State)

@[simp] theorem hostReset_cmd : (hostReset s).cmd = 0 := rfl
@[simp] theorem hostReset_status : (hostReset s).status = 0 := rfl
@[simp] theorem hostReset_bitlen : (hostReset s).bitlen = 0 := rfl
@[simp] theorem hostReset_cfg : (hostReset s).cfg = 3 := rfl
@[simp] theorem hostReset_crcPoly : (hostReset s).crcPoly = 0x1021 := rfl
@[simp] theorem hostReset_crcInit : (hostReset s).crcInit = 0xFFFF := rfl
@[simp] theorem hostReset_crcXorout : (hostReset s).crcXorout = 0xFFFF := rfl
@[simp] theorem hostReset_result : (hostReset s).result = 0 := rfl
@[simp] theorem hostReset_crcRx : (hostReset s).crcRx = 0 := rfl
@[simp] theorem hostReset_crcCalc : (hostReset s).crcCalc = 0 := rfl
@[simp] theorem hostReset_sncrcRx : (hostReset s).sncrcRx = 0 := rfl
@[simp] theorem hostReset_sncrcCalc : (hostReset s).sncrcCalc = 0 := rfl
@[simp] theorem hostReset_fields : (hostReset s).fields = Vector.replicate 38 0 := rfl
@[simp] theorem hostReset_frame : (hostReset s).frame = Memory.drawn (s.draw + 1) := rfl
@[simp] theorem hostReset_params : (hostReset s).params = s.params := rfl
@[simp] theorem hostReset_draw : (hostReset s).draw = s.draw + 1 := rfl
@[simp] theorem hostReset_pending : (hostReset s).pending = s.pending := rfl
@[simp] theorem hostReset_reads : (hostReset s).reads = s.reads := rfl

end hostReset

end Sys2Proof.Machine
end

