-- ==== Sys2Proof/Laws/Exec.lean ====
section
/-! SUPPORT. What each shared operation can do, said once: the matcher, the end of a command, the
dispatcher, a host access. -/

namespace Sys2Proof.Machine

open Sys2Proof

@[simp] theorem exec_crc (off len s) : exec (.crc off len) s = execCrc off len s := rfl
@[simp] theorem exec_extu (off w s) : exec (.extu off w) s = execExtu off w s := rfl
@[simp] theorem exec_extb (off w s) : exec (.extb off w) s = execExtb off w s := rfl
@[simp] theorem exec_matchScmp (s) : exec .matchScmp s = execMatchScmp s := rfl
@[simp] theorem exec_matchIdm (s) : exec .matchIdm s = execMatchIdm s := rfl
@[simp] theorem exec_decodeScmp (s) : exec .decodeScmp s = execDecodeScmp s := rfl
@[simp] theorem exec_decodeIdm (s) : exec .decodeIdm s = execDecodeIdm s := rfl

/-- A command's last statement always answers a next state. -/
theorem complete_eq_next {o : OutcomeCode} {s t : State} : complete o s = .next t ↔ t = finish o s := by
  simp [complete, eq_comm]

/-! ### The field register file -/

theorem fieldFile_getElem (l : List Word) (k : Nat) (hk : k < 38) :
    (fieldFile l)[k] = l.getD k 0 := by
  simp [fieldFile]

theorem fieldFile_nil : fieldFile [] = Vector.replicate 38 0 := by
  ext k hk; simp [fieldFile_getElem]

/-! ### The matcher -/

theorem matchFrame_lengthMismatch {f : FrameSpec} {s : State} :
    matchFrame f s = .lengthMismatch ↔ (lowHalf s.bitlen).toNat ≠ 8 * f.frameBytes := by
  unfold matchFrame; split <;> simp_all; split <;> simp

theorem matchFrame_matched {f : FrameSpec} {s : State} :
    matchFrame f s = .matched ↔
      (lowHalf s.bitlen).toNat = 8 * f.frameBytes ∧
        byteRange s.frame 0 f.preamble.length = f.preamble := by
  unfold matchFrame; split <;> simp_all

theorem matchFrame_preambleMismatch {f : FrameSpec} {s : State} :
    matchFrame f s = .preambleMismatch ↔
      (lowHalf s.bitlen).toNat = 8 * f.frameBytes ∧
        byteRange s.frame 0 f.preamble.length ≠ f.preamble := by
  unfold matchFrame; split <;> simp_all

/-- The matcher reads `BITLEN` and the frame alone. -/
theorem matchFrame_congr {f : FrameSpec} {s t : State} (hb : s.bitlen = t.bitlen)
    (hm : byteRange s.frame 0 f.preamble.length = byteRange t.frame 0 f.preamble.length) :
    matchFrame f s = matchFrame f t := by
  simp [matchFrame, hb, hm]

@[simp] theorem matchFrame_decodePrologue (f : FrameSpec) (s : State) :
    matchFrame f (decodePrologue s) = matchFrame f s := rfl

/-! ### The dispatcher -/

/-- The state a decode ends in once `MATCHING` has passed. -/
def validated (f : FrameSpec) (s : State) : State := writeDiagnostics f (decodePrologue s)

/-- A decode whose row does not match ends in the matcher's outcome with the prologue's writes. -/
theorem decodeFrame_unmatched (f : FrameSpec) (en : Bool) (ex : Memory → List Word) (s : State)
    (h : matchFrame f s ≠ .matched) :
    decodeFrame f en ex s = .next (finish (matchFrame f s).outcome (decodePrologue s)) := by
  simp only [decodeFrame, matchFrame_decodePrologue]
  cases hm : matchFrame f s <;> simp_all [complete, MatchResult.outcome]

/-- A decode whose row matches ends by its checksums and the enable bit. -/
theorem decodeFrame_matched (f : FrameSpec) (en : Bool) (ex : Memory → List Word) (s : State)
    (h : matchFrame f s = .matched) :
    decodeFrame f en ex s =
      if en && !checksumsAgree f s.frame then .next (finish .integrityFailure (validated f s))
      else .next (finish .success (setMic en (setFields (ex s.frame) (validated f s)))) := by
  simp only [decodeFrame, matchFrame_decodePrologue, h]
  rfl

/-- Everything a decode can end in. -/
theorem decodeFrame_cases {f : FrameSpec} {en : Bool} {ex : Memory → List Word} {s t : State}
    (h : decodeFrame f en ex s = .next t) :
    (matchFrame f s ≠ .matched ∧ t = finish (matchFrame f s).outcome (decodePrologue s)) ∨
    (matchFrame f s = .matched ∧ en = true ∧ checksumsAgree f s.frame = false ∧
      t = finish .integrityFailure (validated f s)) ∨
    (matchFrame f s = .matched ∧ (en = true → checksumsAgree f s.frame = true) ∧
      t = finish .success (setMic en (setFields (ex s.frame) (validated f s)))) := by
  by_cases hm : matchFrame f s = .matched
  · rw [decodeFrame_matched f en ex s hm] at h
    split at h
    · next hc =>
      simp only [Bool.and_eq_true, Bool.not_eq_true'] at hc
      exact .inr (.inl ⟨hm, hc.1, hc.2, (Host.Outcome.next.inj h).symm⟩)
    · next hc =>
      refine .inr (.inr ⟨hm, fun he => ?_, (Host.Outcome.next.inj h).symm⟩)
      simpa [he] using hc
  · rw [decodeFrame_unmatched f en ex s hm] at h
    exact .inl ⟨hm, (Host.Outcome.next.inj h).symm⟩

/-- A decode always answers a next state. -/
theorem decodeFrame_completes (f : FrameSpec) (en : Bool) (ex : Memory → List Word) (s : State) :
    ∃ o s', decodeFrame f en ex s = .next (finish o s') := by
  by_cases hm : matchFrame f s = .matched
  · rw [decodeFrame_matched f en ex s hm]; split <;> exact ⟨_, _, rfl⟩
  · exact ⟨_, _, decodeFrame_unmatched f en ex s hm⟩

/-! ### Host accesses -/

theorem command_of_decode {w : Word} {i : Instr} (h : decode w = .ok i) (s : State) :
    command w s = exec i (latch w s) := by
  simp [command, h, writeReg]

theorem command_of_reject {w : Word} {e : Reject} (h : decode w = .error e) (s : State) :
    command w s = .next (finish .illegalCommand (latch w s)) := by
  simp [command, h, writeReg, complete]

/-- Every register is found at its own offset. -/
theorem regAt_offset (r : Reg) : regAt r.offset = some r := by
  cases r with
  | field k => revert k; decide
  | fbw j => revert j; decide
  | _ => rfl

theorem serve_write {s : State} {addr width : Nat} {v : Word} {r : Reg}
    (hp : paramsOk s.params = true) (h : accessTarget s.params.base addr width = .ok r) :
    serve (.write addr width v) s = hostWrite r v s := by
  simp [serve, hp, h]

theorem serve_read {s : State} {addr width : Nat} {r : Reg}
    (hp : paramsOk s.params = true) (h : accessTarget s.params.base addr width = .ok r) :
    serve (.read addr width) s = .next (hostRead r s) := by
  simp [serve, hp, h]

/-- An aligned word access to a register's own address reaches it. -/
theorem accessTarget_offset (base : Nat) (r : Reg) : accessTarget base (base + r.offset) 32 = .ok r := by
  have hlt : r.offset < 0x200 := by
    cases r with
    | field k => have := k.isLt; simp only [Reg.offset]; omega
    | fbw j => have := j.isLt; simp only [Reg.offset]; omega
    | _ => decide
  have hal : r.offset % 4 = 0 := by
    cases r with
    | field k => simp only [Reg.offset]; omega
    | fbw j => simp only [Reg.offset]; omega
    | _ => rfl
  simp [accessTarget, Config.windowBytes, hlt, hal, regAt_offset]

end Sys2Proof.Machine
end

