-- ==== Sys2Proof/Laws/Extract.lean ====
section
/-! SUPPORT. Byte fields and bit fields, one digit at a time. -/

namespace Sys2Proof.Machine

open Sys2Proof

/-- The recursion behind a most-significant-first sum of digits. -/
theorem digits_succ (f : Nat → Nat) (k w : Nat) :
    ((List.range (w + 1)).map fun j => f j <<< (k * (w + 1 - 1 - j))).sum =
      2 ^ k * ((List.range w).map fun j => f j <<< (k * (w - 1 - j))).sum + f w := by
  rw [List.range_succ, List.map_append, List.sum_append]
  simp only [List.map_cons, List.map_nil, List.sum_cons, List.sum_nil, Nat.add_sub_cancel,
    Nat.sub_self, Nat.mul_zero, Nat.shiftLeft_zero, Nat.add_zero]
  congr 1
  rw [← List.sum_map_mul_left]
  congr 1
  refine List.map_congr_left fun j hj => ?_
  simp at hj
  have : w - j = (w - 1 - j) + 1 := by omega
  rw [Nat.shiftLeft_eq, Nat.shiftLeft_eq, this, Nat.mul_succ, pow_add]
  ring

@[simp] theorem be_zero (m : Memory) (off : Nat) : be m off 0 = 0 := rfl

theorem be_succ (m : Memory) (off w : Nat) :
    be m off (w + 1) = 256 * be m off w + (m.read (off + w)).toNat :=
  digits_succ (fun j => (m.read (off + j)).toNat) 8 w

@[simp] theorem bits_zero (m : Memory) (pos : Nat) : bits m pos 0 = 0 := rfl

theorem bits_succ (m : Memory) (pos w : Nat) :
    bits m pos (w + 1) = 2 * bits m pos w + streamBit m (pos + w) := by
  have := digits_succ (fun j => streamBit m (pos + j)) 1 w
  simpa [bits] using this

theorem streamBit_lt (m : Memory) (i : Nat) : streamBit m i < 2 := by
  unfold streamBit
  rw [Nat.and_one_is_mod]
  omega

theorem be_lt (m : Memory) (off w : Nat) : be m off w < 256 ^ w := by
  induction w with
  | zero => simp
  | succ w ih =>
    rw [be_succ, pow_succ]
    have := (m.read (off + w)).isLt
    omega

theorem bits_lt (m : Memory) (pos w : Nat) : bits m pos w < 2 ^ w := by
  induction w with
  | zero => simp
  | succ w ih =>
    rw [bits_succ, pow_succ]
    have := streamBit_lt m (pos + w)
    omega

end Sys2Proof.Machine
end

