-- ==== Sys2Proof/Laws/PerInstr.lean ====
section
/-! SUPPORT. A family of statements about each instruction as syntax: a well-formed instruction's word
stands in its own row of the opcode map (30_encoding.md R88). -/

namespace Sys2Proof.Laws

open Sys2Proof Sys2Proof.Machine

/-- The row of the opcode map that an instruction belongs to, counted from 0 (30_encoding.md R88). -/
def rowIndex : Instr → Fin 7
  | .crc _ _ => 0
  | .extu _ _ => 1
  | .extb _ _ => 2
  | .matchScmp => 3
  | .matchIdm => 4
  | .decodeScmp => 5
  | .decodeIdm => 6

/-- A well-formed instruction's word has its row's mask, match and field constraint. -/
def EncodingRow.Statement (i : Instr) : Prop :=
  i.wellFormed = true → rowMatches (rowIndex i) (encode i)

/-- A masked word is known bit by bit. -/
theorem and_eq_of_bits {w m v : Word}
    (h : ∀ i < 32, (w.getLsbD i && m.getLsbD i) = v.getLsbD i) : w &&& m = v := by
  apply BitVec.eq_of_getLsbD_eq
  intro i hi
  simpa using h i hi

theorem EncodingRow.crc (off len : BitVec 8) : EncodingRow.Statement (.crc off len) := by
  intro _
  refine and_eq_of_bits fun i hi => ?_
  change ((0x1#4 ++ 0#12 ++ off ++ len).getLsbD i && _) = _
  simp only [BitVec.getLsbD_append]
  interval_cases i <;> simp

theorem EncodingRow.extu (off : BitVec 8) (w : BitVec 3) : EncodingRow.Statement (.extu off w) := by
  intro h
  have hw : (encode (.extu off w)).extractLsb' 0 3 = w := by
    apply BitVec.eq_of_getLsbD_eq
    intro i hi
    change ((0x2#4 ++ 0#12 ++ off ++ 0#5 ++ w).extractLsb' 0 3).getLsbD i = _
    simp only [BitVec.getLsbD_extractLsb', BitVec.getLsbD_append]
    grind
  simp only [Instr.wellFormed, extuWidthOk, Bool.and_eq_true, decide_eq_true_eq] at h
  refine ⟨and_eq_of_bits fun i hi => ?_, by rw [hw]; exact h.1, by rw [hw]; exact h.2⟩
  change ((0x2#4 ++ 0#12 ++ off ++ 0#5 ++ w).getLsbD i && _) = _
  simp only [BitVec.getLsbD_append]
  interval_cases i <;> simp

theorem EncodingRow.extb (pos : BitVec 12) (w : BitVec 6) : EncodingRow.Statement (.extb pos w) := by
  intro h
  have hw : (encode (.extb pos w)).extractLsb' 0 6 = w := by
    apply BitVec.eq_of_getLsbD_eq
    intro i hi
    change ((0x3#4 ++ 0#8 ++ pos ++ 0#2 ++ w).extractLsb' 0 6).getLsbD i = _
    simp only [BitVec.getLsbD_extractLsb', BitVec.getLsbD_append]
    grind
  simp only [Instr.wellFormed, extbWidthOk, Bool.and_eq_true, decide_eq_true_eq] at h
  refine ⟨and_eq_of_bits fun i hi => ?_, by rw [hw]; exact h.1, by rw [hw]; exact h.2⟩
  change ((0x3#4 ++ 0#8 ++ pos ++ 0#2 ++ w).getLsbD i && _) = _
  simp only [BitVec.getLsbD_append]
  interval_cases i <;> simp

theorem EncodingRow.matchScmp : EncodingRow.Statement .matchScmp := fun _ => rfl
theorem EncodingRow.matchIdm : EncodingRow.Statement .matchIdm := fun _ => rfl
theorem EncodingRow.decodeScmp : EncodingRow.Statement .decodeScmp := fun _ => rfl
theorem EncodingRow.decodeIdm : EncodingRow.Statement .decodeIdm := fun _ => rfl

end Sys2Proof.Laws
end

