-- ==== Sys2Proof/Tests/Slice0.lean ====
section
/-! SUPPORT. Tests of the model against values that the spec states or that follow by hand from its rules,
and for every statement with hypotheses a concrete case that meets them. -/

namespace Sys2Proof.Tests

open Sys2Proof Sys2Proof.Machine

-- One theorem at a time: the many kernel evaluations below would otherwise each hold a thread's stack.
set_option Elab.async false

/-! ### Frames and states -/

/-- "123456789" (95_test_vectors.md section 2.1). -/
def digits : List Byte := [0x31, 0x32, 0x33, 0x34, 0x35, 0x36, 0x37, 0x38, 0x39]

/-- The SCM+ frame of scenario 1 (95_test_vectors.md section 1.1). -/
def scmpRow : List Byte :=
  [0x16, 0xA3, 0x1E, 0x02, 0x00, 0x00, 0x01, 0x2C, 0x00, 0x00, 0x04, 0xD2, 0x00, 0x00, 0x46, 0x38]

/-- The synthetic IDM frame (95_test_vectors.md section 3.6). -/
def idmRow : List Byte :=
  [0x55, 0x55, 0x16, 0xA3, 0x1C, 0x5C, 0xC6, 0x04, 0xA7, 0x12, 0x34, 0xAB, 0xCD, 0x2A, 0x03, 0xEE] ++
  [0xEE, 0xEE, 0xEE, 0xEE, 0xEE, 0xEE, 0xEE, 0xEE, 0xEE, 0x01, 0xE2, 0x40, 0x00, 0x0D, 0x80, 0xEE] ++
  [0xEE, 0xEE, 0x00, 0x01, 0xB1, 0xC0, 0xEE, 0xEE, 0x00, 0x1C, 0x26, 0x01, 0x2E, 0x47, 0x12, 0x25] ++
  [0xAC, 0xBC, 0x43, 0x87, 0x50, 0x76, 0x4B, 0x3D, 0x52, 0x85, 0xE0, 0x59, 0xDA, 0x70, 0xCD, 0xE8] ++
  [0xC8, 0x39, 0x63, 0x3E, 0x96, 0x5E, 0x7F, 0x0A, 0x92, 0x6C, 0xA2, 0xBB, 0xEF, 0x15, 0x4C, 0xEB] ++
  [0x76, 0x06, 0xE1, 0x7F, 0xAB, 0x8F, 0xFF, 0xC0, 0xAF, 0xBF, 0xF8, 0x27]

/-- The frame buffer that holds a row, other bytes 0. -/
def frameOf (row : List Byte) : Memory := (List.range 92).map fun a => (a, row.getD a 0)

/-- The reset state with a row loaded. -/
def loaded (row : List Byte) (n : Nat) : State :=
  { State.reset with frame := frameOf row, bitlen := word n }

/-- The loaded state before host accesses. -/
def hosted (l : List HostAccess) : State := { loaded scmpRow 128 with pending := l }

def scmp : State := loaded scmpRow 128
def idm : State := loaded idmRow 736

/-- The next state, of an outcome that has one. -/
def after : Host.Outcome State Fault Refusal → State
  | .next t => t
  | _ => State.reset

def stopped : Host.Outcome State Fault Refusal → Bool
  | .next _ => false
  | _ => true

theorem eq_next_after {o : Host.Outcome State Fault Refusal} (h : stopped o = false) :
    o = .next (after o) := by
  cases o <;> first | rfl | cases h

/-! ### WellFormed: each check refuses an ill-formed term (30_encoding.md R84, R85) -/

theorem test_extu_width_zero_refused : (Instr.extu 0 0).wellFormed = false := by decide
theorem test_extu_width_five_refused : (Instr.extu 0 5).wellFormed = false := by decide
theorem test_extb_width_zero_refused : (Instr.extb 0 0).wellFormed = false := by decide
theorem test_extb_width_33_refused : (Instr.extb 0 33).wellFormed = false := by decide
theorem test_params_ill_formed_refused :
    paramsOk { Params.default with pktCrcHi := 93 } = false ∧
      paramsOk { Params.default with pktCrcLo := 91 } = false ∧
      paramsOk { Params.default with ttoOffset := 91 } = false := by decide

/-! ### Decode: words written out bit by bit (30_encoding.md R83 to R86, R89) -/

theorem test_decode_crc :
    decode 0b00010000000000000000001000001100#32 = .ok (.crc 2 12) := by decide
theorem test_decode_extu :
    decode 0b00100000000000000000010000000100#32 = .ok (.extu 4 4) := by decide
theorem test_decode_extb :
    decode 0b00110000000000000100010000000100#32 = .ok (.extb 68 4) := by decide
theorem test_decode_extb_widest :
    decode 0b00110000000011111111111100100000#32 = .ok (.extb 4095 32) := by decide
theorem test_decode_matchScmp :
    decode 0b01000000000000000000000000000000#32 = .ok .matchScmp := by decide
theorem test_decode_matchIdm :
    decode 0b01000000000000000000000000000001#32 = .ok .matchIdm := by decide
theorem test_decode_decodeScmp :
    decode 0b01010000000000000000000000000000#32 = .ok .decodeScmp := by decide
theorem test_decode_decodeIdm :
    decode 0b01010000000000000000000000000001#32 = .ok .decodeIdm := by decide

/-- Illegal words of 95_test_vectors.md section 3.5, rejected by name. -/
theorem test_decode_rejects :
    decode 0x60000000 = .error .opcode ∧ decode 0x10010000 = .error .reservedBits ∧
    decode 0x20000405 = .error .fieldWidth ∧ decode 0x20000409 = .error .reservedBits ∧
    decode 0x30000021 = .error .fieldWidth ∧ decode 0x30100001 = .error .reservedBits ∧
    decode 0x40000002 = .error .format ∧ decode 0x51000000 = .error .reservedBits := by decide

theorem test_decodeTableWord : decodeTableWord 32 0x1000020C = some (.crc 2 12) := by decide

/-- A fetched word runs as the very next step: `LASTOP` and `OUTCOME` after `CRC` on an empty row
(95_test_vectors.md section 2.4, row 11). -/
theorem test_withFetchWord_runs :
    (after (step (State.reset.withFetchWord 32 0x10000000))).status = 0x011 := by decide

/-! ### One step each -/

/-- 95_test_vectors.md section 2.4, row 1. -/
theorem test_crc_result :
    (after (command 0x10000009 (loaded digits 72))).result = 0xD64E ∧
    (after (command 0x10000009 (loaded digits 72))).status = 0x011 := by decide +kernel

/-- 95_test_vectors.md section 2.4, row 10. -/
theorem test_crc_range :
    (after (command 0x10000009 (loaded digits 71))).result = 0 ∧
    (after (command 0x10000009 (loaded digits 71))).status = 0x115 := by decide +kernel

/-- 95_test_vectors.md section 3.1, row 4. -/
theorem test_extu_three_bytes :
    (after (command 0x20000003 scmp)).result = 0x0016A31E := by decide +kernel

/-- 95_test_vectors.md section 3.1, row 11. -/
theorem test_extu_range :
    (after (command 0x20000E02 (loaded scmpRow 127))).status = 0x125 := by decide +kernel

/-- 95_test_vectors.md section 3.2, row 4. -/
theorem test_extb_five_bytes :
    (after (command 0x30000320 scmp)).result = 0xB518F010 := by decide +kernel

/-- 95_test_vectors.md section 3.2, row 11. -/
theorem test_extb_range : (after (command 0x30008001 scmp)).status = 0x135 := by decide +kernel

/-- 95_test_vectors.md section 3.3, rows 1, 3 and 7. -/
theorem test_matchScmp :
    (after (command 0x40000000 scmp)).status = 0x041 ∧
    (after (command 0x40000000 (loaded scmpRow 129))).status = 0x042 ∧
    (after (command 0x40000000 (loaded (scmpRow.set 0 0x17) 128))).status = 0x043 := by decide +kernel

/-- 95_test_vectors.md section 3.3, rows 4, 5 and 10. -/
theorem test_matchIdm :
    (after (command 0x40000001 idm)).status = 0x041 ∧
    (after (command 0x40000001 scmp)).status = 0x042 ∧
    (after (command 0x40000001 (loaded (idmRow.set 6 0xC7) 736))).status = 0x043 := by decide +kernel

/-- 95_test_vectors.md section 3.4, row 1. -/
theorem test_decodeScmp_success :
    (after (command 0x50000000 scmp)).status = 0x251 ∧
    (after (command 0x50000000 scmp)).fields =
      fieldFile [0x1E, 0x02, 0x12C, 0x4D2, 0, 0x4638, 0x4638] := by decide +kernel

/-- 95_test_vectors.md section 3.4, row 4: byte 11 XOR 0x01. -/
theorem test_decodeScmp_integrity :
    (after (command 0x50000000 (loaded (scmpRow.set 11 0xD3) 128))).status = 0x054 ∧
    (after (command 0x50000000 (loaded (scmpRow.set 11 0xD3) 128))).crcCalc = 0x7108 := by
  decide +kernel

/-- 95_test_vectors.md section 3.6, row 1. -/
theorem test_decodeIdm_success :
    (after (command 0x50000001 idm)).status = 0x251 ∧
    (after (command 0x50000001 idm)).fields =
      fieldFile ([0x1234ABCD, 0x04, 0x7, 0x2A, 0x03, 0x000D80, 0x01E240, 0x0001B1C0, 0xAFBF, 0xF827,
        0xFFC0] ++ [0x0007, 0x0260, 0x04B9, 0x0712, 0x096B, 0x0BC4, 0x0E1D, 0x1076, 0x12CF] ++
        [0x1528, 0x1781, 0x19DA, 0x1C33, 0x1E8C, 0x20E5, 0x233E, 0x2597, 0x27F0] ++
        [0x2A49, 0x2CA2, 0x2EFB, 0x3154, 0x33AD, 0x3606, 0x385F, 0x3AB8, 0x3FFF]) := by decide +kernel

/-- 95_test_vectors.md section 3.6, row 9: byte 87 XOR 0x01. -/
theorem test_decodeIdm_integrity :
    (after (command 0x50000001 (loaded (idmRow.set 87 0xC1) 736))).status = 0x054 ∧
    (after (command 0x50000001 (loaded (idmRow.set 87 0xC1) 736))).crcCalc = 0xCF17 ∧
    (after (command 0x50000001 (loaded (idmRow.set 87 0xC1) 736))).sncrcCalc = 0xBF9E := by
  decide +kernel

/-- An illegal word (95_test_vectors.md section 3.5). -/
theorem test_illegal_command : (after (command 0x20000407 scmp)).status = 0x126 := by decide +kernel

/-- The record view of scenario 1 (95_test_vectors.md section 1.1). -/
theorem test_record_scmp :
    record (after (command 0x50000000 scmp)) = some
      [("model", .text "SCMplus"), ("protocol", .number 0x1E), ("scm_type", .number 0x02),
       ("id", .number 0x12C), ("consumption_data", .number 0x4D2), ("tamper", .number 0),
       ("crc", .number 0x4638), ("calc_crc", .number 0x4638),
       ("codes", .text "16a31e020000012c000004d200004638"), ("mic", .text "CRC")] := by decide +kernel

/-- Assembled text (30_encoding.md R93 to R95; 95_test_vectors.md section 4.1). -/
theorem test_assembler :
    assembleText 0 "crc 2, 12 ; the default range" = .ok [.write 0 32 0x1000020C] ∧
    assembleText 0 "rd FIELD[6]" = .ok [.read 0x58 32] ∧
    assembleText 0 "extu 4, 5" = .error .operandRange ∧
    assembleText 0 "ldrow 72, 31 32 33 34 35 36 37 38 39" =
      .ok [.write 0x100 32 0x31323334, .write 0x104 32 0x35363738, .write 0x108 32 0x39000000,
        .write 0x008 32 72] := by decide +kernel

/-- Refused accesses (20_memory.md R61). -/
theorem test_access_refusals :
    accessTarget 0x1000 0x1000 16 = .error (.accessWidth 16) ∧
    accessTarget 0x1000 0x0FFC 32 = .error (.outsideWindow 0x0FFC) ∧
    accessTarget 0x1000 0x1200 32 = .error (.outsideWindow 0x1200) ∧
    accessTarget 0x1000 0x1002 32 = .error (.misaligned 2) ∧
    accessTarget 0x1000 0x1030 32 = .error (.unmapped 0x030) ∧
    accessTarget 0x1000 0x10D8 32 = .error (.unmapped 0x0D8) ∧
    accessTarget 0x1000 0x115C 32 = .error (.unmapped 0x15C) := by decide

/-! ### Witnesses: every statement's hypotheses are met -/

theorem witness_EncodeThenDecodeIsIdentity :
    (Instr.crc 255 255).wellFormed = true ∧ (Instr.extu 0 1).wellFormed = true ∧
    (Instr.extu 255 4).wellFormed = true ∧ (Instr.extb 0 1).wellFormed = true ∧
    (Instr.extb 4095 32).wellFormed = true ∧ Instr.matchIdm.wellFormed = true := by decide

theorem witness_DecodeThenEncodeIsIdentity : decode 0x3002BA06 = .ok (.extb 698 6) := by decide

theorem witness_OpcodeMapIsExact :
    rowMatches 0 0x1000FFFF ∧ rowMatches 1 0x2000FF04 ∧ rowMatches 1 0x20000001 ∧
    rowMatches 2 0x300FFF20 ∧ rowMatches 2 0x30000001 ∧ rowMatches 3 0x40000000 ∧
    rowMatches 4 0x40000001 ∧ rowMatches 5 0x50000000 ∧ rowMatches 6 0x50000001 := by
  simp only [rowMatches]; decide

theorem witness_IllegalWordChangesOnlyStatus :
    IllegalListed 0x00000000 ∧ IllegalListed 0x60000000 ∧ IllegalListed 0x10010000 ∧
    IllegalListed 0x20000000 ∧ IllegalListed 0x20000005 ∧ IllegalListed 0x20000009 ∧
    IllegalListed 0x30000000 ∧ IllegalListed 0x30000021 ∧ IllegalListed 0x30000041 ∧
    IllegalListed 0x40000002 ∧ IllegalListed 0x50000010 := by
  refine ⟨?_, ?_, ?_, ?_, ?_, ?_, ?_, ?_, ?_, ?_, ?_⟩ <;> (simp only [IllegalListed]; decide)

theorem witness_StepRunsTheDecodedCommand :
    paramsOk (hosted [.write 0 32 0x1000020C]).params = true ∧
    (hosted [.write 0 32 0x1000020C]).pending =
      .write (hosted [.write 0 32 0x1000020C]).params.base 32 0x1000020C :: [] ∧
    decode 0x1000020C = .ok (.crc 2 12) ∧
    (hosted [.write 0 32 0x60000000]).pending =
      .write (hosted [.write 0 32 0x60000000]).params.base 32 0x60000000 :: [] ∧
    decode 0x60000000 = .error .opcode := by decide

theorem witness_EveryCommandWordCompletes :
    paramsOk (hosted [.write 0 32 0x50000001]).params = true ∧
    (hosted [.write 0 32 0x50000001]).pending =
      .write (hosted [.write 0 32 0x50000001]).params.base 32 0x50000001 :: [] := by decide

theorem witness_SafeRunsNeverStop :
    (hosted [.write 0 32 0, .read 0x02C 32, .read 0x0D4 32, .write 0x158 32 1, .reset]).safe := by
  refine ⟨by decide, ?_⟩
  simp [hosted, loaded, State.reset, Params.default, HostAccess.allowed, InContract, Mapped]

theorem witness_CrcCommandResult :
    (0x1000FFFF : Word) &&& 0xFFFF0000 = 0x10000000 ∧
    (0x10000000 : Word) &&& 0xFFFF0000 = 0x10000000 := by decide

/-- Each clause: the frames of the worked examples. -/
theorem witness_WorkedCommandExamples :
    (byteRange (loaded digits 72).frame 0 9 = digits ∧ (loaded digits 72).bitlen = 72 ∧
      (loaded digits 72).crcPoly = 0x1021 ∧ (loaded digits 72).crcInit = 0xFFFF ∧
      (loaded digits 72).crcXorout = 0xFFFF) ∧
    (byteRange scmp.frame 4 8 = [0x00, 0x00, 0x01, 0x2C] ∧ scmp.bitlen = 128) ∧
    (idm.frame.read 8 = 0xA7 ∧ 72 ≤ (idm.bitlen.extractLsb' 0 16).toNat) ∧
    (scmp.cfg.getLsbD 0 = true ∧ byteRange scmp.frame 0 16 = scmpRow) := by decide +kernel

theorem witness_CrcSingleBitSensitivity :
    (0x1021 : Half).getLsbD 0 = true ∧ 0 < digits.length ∧ 8 < digits.length ∧ 7 < 8 := by decide

/-- A one-byte range that ends where the declared row ends. -/
theorem witness_CrcZeroPolynomialOnlyShifts :
    2 ≤ [(0x31 : Byte), 0x32].length ∧
    { loaded digits 72 with crcPoly := 0 }.crcPoly = 0 ∧
    (8#8).toNat + (1#8).toNat ≤
      min 92 (({ loaded digits 72 with crcPoly := 0 }.bitlen.extractLsb' 0 16).toNat / 8) := by
  decide +kernel

theorem witness_CrcIsLinear : digits.length = (digits.set 4 0x3D).length := by decide

theorem witness_ByteFieldIsBigEndian :
    (1 ≤ 1 ∧ 1 ≤ 4) ∧ (1 ≤ 4 ∧ 4 ≤ 4) ∧ 3 < 4 ∧ be (frameOf scmpRow) 4 4 = 0x12C := by
  decide +kernel

theorem witness_BitFieldIsMsbFirst :
    (1 ≤ 1 ∧ 1 ≤ 32) ∧ (1 ≤ 32 ∧ 32 ≤ 32) ∧ 31 < 32 ∧
      bits (frameOf scmpRow) 3 32 = 0xB518F010 := by decide +kernel

theorem witness_ByteFieldIsItsBitField : (1 ≤ 1 ∧ 1 ≤ 4) ∧ (1 ≤ 4 ∧ 4 ≤ 4) := by decide

theorem witness_ExtuCommandResult :
    (0x2000FF04 : Word) &&& 0xFFFF00F8 = 0x20000000 ∧
    1 ≤ ((0x20000001 : Word).extractLsb' 0 3).toNat ∧ ((0x2000FF04 : Word).extractLsb' 0 3).toNat ≤ 4 ∧
    (1 ≤ (1 : BitVec 3).toNat ∧ (4 : BitVec 3).toNat ≤ 4) := by decide

theorem witness_ExtbCommandResult :
    (0x300FFF20 : Word) &&& 0xFFF000C0 = 0x30000000 ∧
    1 ≤ ((0x30000001 : Word).extractLsb' 0 6).toNat ∧ ((0x300FFF20 : Word).extractLsb' 0 6).toNat ≤ 32 ∧
    (1 ≤ (1 : BitVec 6).toNat ∧ (32 : BitVec 6).toNat ≤ 32) := by decide

/-- A success that agrees on the declared row only, and an error that agrees nowhere. -/
theorem witness_HostRangesReadTheDeclaredRowOnly :
    (writesResult (.extu 4 4) = true ∧ exec (.extu 4 4) scmp = .next (after (exec (.extu 4 4) scmp)) ∧
      AgreeBelow (min 92 ((scmp.bitlen.extractLsb' 0 16).toNat / 8)) scmp.frame
        (scmp.frame.write 16 0xFF)) ∧
    (writesResult (.crc 0 17) = true ∧ exec (.crc 0 17) scmp = .next (after (exec (.crc 0 17) scmp)) ∧
      5 ≤ (statusOutcome (after (exec (.crc 0 17) scmp)).status).toNat) := by
  refine ⟨⟨rfl, eq_next_after (by decide +kernel), ?_⟩, rfl, eq_next_after (by decide +kernel),
    by decide +kernel⟩
  intro a ha
  have h16 : min 92 ((scmp.bitlen.extractLsb' 0 16).toNat / 8) = 16 := by decide +kernel
  rw [Memory.read_write, if_neg (by omega)]

/-- Byte 8 with its reserved nibble changed from 0xA to 0xF (95_test_vectors.md section 3.6, row 11). -/
theorem witness_ReservedNibbleIsMaskedOff :
    { idm with cfg := 1 }.cfg.getLsbD 1 = false ∧ idm.params.ttoOffset ≠ 8 ∧
    idm.params.ttoOffset + 1 ≠ 8 ∧ (0xF7 : Byte).toNat % 16 = (idm.frame.read 8).toNat % 16 ∧
    exec .decodeIdm { idm with cfg := 1 } = .next (after (exec .decodeIdm { idm with cfg := 1 })) ∧
    statusOutcome (after (exec .decodeIdm { idm with cfg := 1 })).status = 1 :=
  ⟨by decide, by decide, by decide, by decide +kernel, eq_next_after (by decide +kernel),
    by decide +kernel⟩

/-- Each command and its format's length. -/
theorem witness_LengthCheckIgnoresContent :
    let ok (i : Instr) (n : Nat) : Prop :=
      (i = .matchScmp ∨ i = .decodeScmp) ∧ n = 128 ∨ (i = .matchIdm ∨ i = .decodeIdm) ∧ n = 736
    ok .matchScmp 128 ∧ ok .decodeScmp 128 ∧ ok .matchIdm 736 ∧ ok .decodeIdm 736 := by
  simp

theorem witness_IdmNeedsBothCrcs :
    idm.cfg.getLsbD 1 = true ∧
    exec .matchIdm idm = .next (after (exec .matchIdm idm)) ∧
    statusOutcome (after (exec .matchIdm idm)).status = 1 :=
  ⟨by decide, eq_next_after (by decide +kernel), by decide +kernel⟩

/-- Each failing outcome happens (95_test_vectors.md section 3.4, rows 5, 8 and 2). -/
theorem witness_FailedDecodeLeavesNoRecord :
    isDecode .decodeScmp = true ∧
    statusOutcome (after (exec .decodeScmp (loaded scmpRow 120))).status = 2 ∧
    statusOutcome (after (exec .decodeScmp (loaded (scmpRow.set 0 0x17) 128))).status = 3 ∧
    statusOutcome (after (exec .decodeScmp (loaded (scmpRow.set 15 0x39) 128))).status = 4 := by
  decide +kernel

theorem witness_DecodeReadsOnlyItsFrame :
    let s' : State := { idm with frame := idm.frame.write 92 0xFF, result := 7 }
    idm.bitlen = s'.bitlen ∧ idm.cfg = s'.cfg ∧ idm.status = s'.status ∧ idm.params = s'.params ∧
    paramsOk idm.params = true ∧ AgreeBelow 16 idm.frame s'.frame ∧ AgreeBelow 92 idm.frame s'.frame ∧
    isDecode .decodeIdm = true ∧ exec .decodeIdm idm = .next (after (exec .decodeIdm idm)) := by
  refine ⟨rfl, rfl, rfl, rfl, by decide, ?_, ?_, rfl, eq_next_after (by decide +kernel)⟩ <;>
  · intro a ha
    rw [Memory.read_write, if_neg (by omega)]

theorem witness_EnforcementOffNeverFails :
    ({ scmp with cfg := 0 }.cfg.getLsbD 0 = false ∧
      exec .matchScmp { scmp with cfg := 0 } = .next (after (exec .matchScmp { scmp with cfg := 0 })) ∧
      statusOutcome (after (exec .matchScmp { scmp with cfg := 0 })).status = 1) ∧
    ({ idm with cfg := 0 }.cfg.getLsbD 1 = false ∧
      exec .matchIdm { idm with cfg := 0 } = .next (after (exec .matchIdm { idm with cfg := 0 })) ∧
      statusOutcome (after (exec .matchIdm { idm with cfg := 0 })).status = 1) :=
  ⟨⟨by decide, eq_next_after (by decide +kernel), by decide +kernel⟩,
    by decide, eq_next_after (by decide +kernel), by decide +kernel⟩

theorem witness_ScmpSingleBitErrorIsCaught :
    (2 ≤ 2 ∧ 2 < 16) ∧ (2 ≤ 15 ∧ 15 < 16) ∧ 7 < 8 ∧ scmp.cfg.getLsbD 0 = true ∧
    exec .decodeScmp scmp = .next (after (exec .decodeScmp scmp)) ∧
    statusOutcome (after (exec .decodeScmp scmp)).status = 1 :=
  ⟨by decide, by decide, by decide, by decide, eq_next_after (by decide +kernel), by decide +kernel⟩

theorem witness_IdmSingleBitErrorIsCaught :
    (7 ≤ 7 ∧ 7 < 92) ∧ (7 ≤ 91 ∧ 91 < 92) ∧ 7 < 8 ∧ idm.cfg.getLsbD 1 = true ∧
    idm.params.pktCrcLo = 7 ∧ idm.params.pktCrcHi = 90 ∧
    exec .decodeIdm idm = .next (after (exec .decodeIdm idm)) ∧
    statusOutcome (after (exec .decodeIdm idm)).status = 1 :=
  ⟨by decide, by decide, by decide, by decide, by decide, by decide, eq_next_after (by decide +kernel),
    by decide +kernel⟩

theorem witness_FieldWidthsHold :
    exec .decodeScmp scmp = .next (after (exec .decodeScmp scmp)) ∧
    exec .decodeIdm idm = .next (after (exec .decodeIdm idm)) :=
  ⟨eq_next_after (by decide +kernel), eq_next_after (by decide +kernel)⟩

/-- A state with the invariant in which no command has run. -/
theorem scmp_inv : scmp.Inv := by constructor <;> decide +kernel

/-- A state with the invariant in which a decode has succeeded. -/
theorem decoded_inv : (after (command 0x50000000 scmp)).Inv := by constructor <;> decide +kernel

/-- A state with the invariant in which `ERR` and `MIC` are both set. -/
theorem failed_inv : (after (command 0x60000000 (after (command 0x50000001 idm)))).Inv := by
  constructor <;> decide +kernel

theorem witness_StatusWordLayout : (after (command 0x50000000 scmp)).Inv := decoded_inv

/-- A reset, a command that ends in an error and an access that is neither. -/
theorem witness_ErrIsStickyUntilReset :
    ((hosted [.reset]).pending = .reset :: [] ∧
      step (hosted [.reset]) = .next (after (step (hosted [.reset])))) ∧
    ((hosted [.write 0 32 0x20000407]).pending =
        .write (hosted [.write 0 32 0x20000407]).params.base 32 0x20000407 :: [] ∧
      step (hosted [.write 0 32 0x20000407]) =
        .next (after (step (hosted [.write 0 32 0x20000407])))) ∧
    ((hosted [.write 4 32 0x20000407]).pending = .write 4 32 0x20000407 :: [] ∧
      step (hosted [.write 4 32 0x20000407]) =
        .next (after (step (hosted [.write 4 32 0x20000407]))) ∧
      HostAccess.write 4 32 0x20000407 ≠ .reset ∧
      ∀ w, HostAccess.write 4 32 0x20000407 ≠
        .write (hosted [.write 4 32 0x20000407]).params.base 32 w) := by
  refine ⟨⟨rfl, eq_next_after (by decide +kernel)⟩, ⟨rfl, eq_next_after (by decide +kernel)⟩, rfl,
    eq_next_after (by decide +kernel), by decide, ?_⟩
  intro w h
  exact absurd (HostAccess.write.inj h).1 (by decide)

/-- Each clause: the two decodes, and a command that is none. -/
theorem witness_MicOnlyFromDecode :
    (command 0x50000000 scmp = .next (after (command 0x50000000 scmp)) ∧
      decode 0x50000000 = .ok .decodeScmp) ∧
    (command 0x50000001 idm = .next (after (command 0x50000001 idm)) ∧
      decode 0x50000001 = .ok .decodeIdm) ∧
    (command 0x40000000 scmp = .next (after (command 0x40000000 scmp)) ∧
      ∀ i, decode 0x40000000 = .ok i → isDecode i = false) := by
  refine ⟨⟨eq_next_after (by decide +kernel), rfl⟩, ⟨eq_next_after (by decide +kernel), rfl⟩,
    eq_next_after (by decide +kernel), ?_⟩
  intro i h
  obtain rfl := Except.ok.inj ((show decode 0x40000000 = .ok .matchScmp by decide).symm.trans h)
  rfl

/-- A word that sets `ERR`, a command that changes `RESULT`, one out of range, a decode that fails, and one
that is no decode. -/
theorem witness_CommandWriteSets :
    (command 0x20000407 scmp = .next (after (command 0x20000407 scmp)) ∧
      statusErr (after (command 0x20000407 scmp)).status ≠ statusErr scmp.status) ∧
    (command 0x20000404 scmp = .next (after (command 0x20000404 scmp)) ∧
      (after (command 0x20000404 scmp)).result ≠ scmp.result) ∧
    (command 0x1000000F (loaded scmpRow 64) = .next (after (command 0x1000000F (loaded scmpRow 64))) ∧
      statusOutcome (after (command 0x1000000F (loaded scmpRow 64))).status = 5) ∧
    (decode 0x50000000 = .ok .decodeScmp ∧ isDecode .decodeScmp = true ∧
      command 0x50000000 (loaded scmpRow 120) =
        .next (after (command 0x50000000 (loaded scmpRow 120))) ∧
      statusOutcome (after (command 0x50000000 (loaded scmpRow 120))).status = 2) ∧
    (∀ i, decode 0x20000404 = .ok i → isDecode i = false) := by
  refine ⟨⟨eq_next_after (by decide +kernel), by decide +kernel⟩,
    ⟨eq_next_after (by decide +kernel), by decide +kernel⟩,
    ⟨eq_next_after (by decide +kernel), by decide +kernel⟩,
    ⟨by decide, rfl, eq_next_after (by decide +kernel), by decide +kernel⟩, ?_⟩
  intro i h
  obtain rfl := Except.ok.inj ((show decode 0x20000404 = .ok (.extu 4 4) by decide).symm.trans h)
  rfl

theorem witness_ReservedAndReadOnlyBits :
    Reg.readOnly .status = true ∧ Reg.readOnly (.field 37) = true ∧ Reg.readOnly .cfg = false ∧
    Reg.readOnly (.fbw 22) = false ∧ scmp.Inv := ⟨rfl, rfl, rfl, rfl, scmp_inv⟩

/-- The bytes just outside a frame word, and the last byte of the buffer. -/
theorem witness_FrameWordsAreBigEndian :
    (3 < 4 * (1 : Fin 23).val) ∧ (4 * (1 : Fin 23).val + 4 ≤ 8) ∧ 91 < 92 := by decide

/-- An allowed access and one that is not. -/
theorem witness_OutOfContractAccessIsRefused :
    paramsOk (hosted [.read 0x0D4 32]).params = true ∧
    (hosted [.read 0x0D4 32]).pending = .read 0x0D4 32 :: [] ∧
    HostAccess.allowed 0 (.read 0x0D4 32) ∧
    (hosted [.read 0x0D8 32]).pending = .read 0x0D8 32 :: [] ∧
    ¬ HostAccess.allowed 0 (.read 0x0D8 32) :=
  ⟨by decide, rfl, by simp [HostAccess.allowed, InContract, Mapped], rfl,
    by simp [HostAccess.allowed, InContract, Mapped]⟩

theorem witness_RegisterMapIsOneToOne :
    0x158 % 4 = 0 ∧ regAt 0x158 = some (.fbw 22) ∧ regAt 0x15C = none ∧ regAt 0x03C = none ∧
    regAt 0x030 = none ∧ regAt 0x0D8 = none ∧ regAt 0x02C = some .sncrcCalc ∧
    regAt 0x040 = some (.field 0) ∧ regAt 0x0D4 = some (.field 37) ∧ regAt 0x100 = some (.fbw 0) ∧
    regAt 0x0FC = none := by decide

theorem witness_ReadHasNoSideEffect :
    paramsOk (hosted [.read (0 + Reg.offset .result) 32]).params = true ∧
    (hosted [.read (0 + Reg.offset .result) 32]).pending =
      .read ((hosted [.read (0 + Reg.offset .result) 32]).params.base + Reg.offset .result) 32 :: [] := by
  decide

theorem witness_ReadAfterWriteSeesTheWrite :
    paramsOk (hosted [.write 0xC 32 7, .read 0xC 32]).params = true ∧ Reg.readOnly .cfg = false ∧
    (hosted [.write 0xC 32 7, .read 0xC 32]).pending =
      .write ((hosted [.write 0xC 32 7, .read 0xC 32]).params.base + Reg.offset .cfg) 32 7 ::
      .read ((hosted [.write 0xC 32 7, .read 0xC 32]).params.base + Reg.offset .cfg) 32 :: [] := by
  decide

theorem witness_HostWritesAreIdempotent :
    scmp.frame.wf = true ∧ hostWrite .cmd 0x50000000 scmp = .next (after (hostWrite .cmd 0x50000000 scmp)) :=
  ⟨by decide +kernel, eq_next_after (by decide +kernel)⟩

theorem witness_FieldsStraddleFrameWords :
    paramsOk (hosted [.write 0x100 32 0x16A31E02, .write 0x104 32 0x0000012C]).params = true ∧
    (hosted [.write 0x100 32 0x16A31E02, .write 0x104 32 0x0000012C]).pending =
      .write ((hosted [.write 0x100 32 0x16A31E02, .write 0x104 32 0x0000012C]).params.base + 0x100) 32
        0x16A31E02 ::
      .write ((hosted [.write 0x100 32 0x16A31E02, .write 0x104 32 0x0000012C]).params.base + 0x104) 32
        0x0000012C :: [] := by decide

theorem witness_DesignParametersNeverChange :
    step (hosted [.reset]) = .next (after (step (hosted [.reset]))) := eq_next_after (by decide +kernel)

/-- A parameter set other than the default: a window elsewhere, another packet range. -/
theorem witness_ResetRegisterValues :
    configure { Params.default with base := 0x40000000, pktCrcLo := 0, pktCrcHi := 92, ttoOffset := 90 } =
      some { State.reset with params := { Params.default with
        base := 0x40000000, pktCrcLo := 0, pktCrcHi := 92, ttoOffset := 90 } } := by
  rw [configure, if_pos (by decide)]

theorem witness_ResetEventRestoresRegisters :
    paramsOk (hosted [.reset, .read 4 32]).params = true ∧
    (hosted [.reset, .read 4 32]).pending = .reset :: [.read 4 32] := by decide

theorem witness_EveryStepKeepsInv :
    (hosted [.write 0 32 0x50000000]).Inv ∧
    step (hosted [.write 0 32 0x50000000]) =
      .next (after (step (hosted [.write 0 32 0x50000000]))) :=
  ⟨by constructor <;> decide +kernel, eq_next_after (by decide +kernel)⟩

theorem witness_ResetStateMeetsInv :
    configure Params.default = some { State.reset with params := Params.default } := by
  rw [configure, if_pos (by decide)]

/-- Both sides of the record's condition. -/
theorem witness_RecordExistsAfterSuccessfulDecode :
    (after (command 0x50000000 scmp)).Inv ∧ (record (after (command 0x50000000 scmp))).isSome = true ∧
    scmp.Inv ∧ (record scmp).isSome = false :=
  ⟨decoded_inv, by decide +kernel, scmp_inv, by decide +kernel⟩

theorem witness_ScmpRecordContents :
    command 0x50000000 scmp = .next (after (command 0x50000000 scmp)) ∧
    statusOutcome (after (command 0x50000000 scmp)).status = 1 ∧ scmp.cfg.getLsbD 0 = true :=
  ⟨eq_next_after (by decide +kernel), by decide +kernel, by decide⟩

theorem witness_IdmRecordContents :
    command 0x50000001 idm = .next (after (command 0x50000001 idm)) ∧
    statusOutcome (after (command 0x50000001 idm)).status = 1 :=
  ⟨eq_next_after (by decide +kernel), by decide +kernel⟩

theorem witness_HexdumpSpellsTheFrame :
    91 < 92 ∧ (hexdumpChars (frameOf scmpRow) 16)[30]? = some '3' := by decide +kernel

/-- An illegal word is no decode either. -/
theorem witness_RecordEndsAtTheNextCommand : ∀ i, decode 0x60000000 = .ok i → isDecode i = false := by
  intro i h
  exact absurd ((show decode 0x60000000 = .error .opcode by decide).symm.trans h) (by simp)

/-- The operands at both ends of each range, and just past them. -/
theorem witness_AssembledCommandsDecode :
    (255 < 256 ∧ ¬ 256 < 256) ∧ (1 ≤ 4 ∧ 4 ≤ 4 ∧ ¬ 5 ≤ 4 ∧ ¬ 1 ≤ 0) ∧ (4095 < 4096 ∧ ¬ 4096 < 4096) ∧
    assemble 0 (.extb 4095 32) = .ok [.write 0 32 0x300FFF20] ∧
    assemble 0 (.extb 4096 32) = .error .operandRange := by decide

/-- The largest length; rows of no, three (one byte missing) and four bytes, with the addresses where the
row, its last word and the rest meet. -/
theorem witness_LdrowLoadsTheRow :
    paramsOk State.reset.params = true ∧ 65535 < 2 ^ 16 ∧
    assemble State.reset.params.base (.ldrow 24 [1, 2, 255]) =
      .ok [.write 0x100 32 0x0102FF00, .write 0x008 32 24] ∧
    (hosted [.write 0x100 32 0x0102FF00, .write 0x008 32 24]).pending =
      [.write 0x100 32 0x0102FF00, .write 0x008 32 24] ++ [] ∧
    (2 < [1, 2, 255].length ∧ [1, 2, 255].length ≤ 3 ∧ 3 < 4 * (([1, 2, 255].length + 3) / 4) ∧
      4 * (([1, 2, 255].length + 3) / 4) ≤ 4) ∧
    assemble State.reset.params.base (.ldrow 65535 []) = .ok [.write 0x008 32 65535] ∧
    assemble State.reset.params.base (.ldrow 32 [1, 2, 3, 4]) =
      .ok [.write 0x100 32 0x01020304, .write 0x008 32 32] := by decide +kernel

end Sys2Proof.Tests
end

section
/-! SUPPORT. Proofs of the statements about the registers (10_state.md): what one command word can do, said
once as `CommandEffect`; which access reaches which register; the statements O37, O38, O39, O40, O49. -/

namespace Sys2Proof.Machine

open Sys2Proof

/-! ### The commands -/

/-- A word that decodes meets its row's field constraint (30_encoding.md R88), so the width guards of
`execExtu` and `execExtb` (log 11) never bite in a command. -/
theorem decode_wellFormed {w : Word} {i : Instr} (h : decode w = .ok i) : i.wellFormed = true := by
  unfold decode at h
  split at h
  · unfold decodeR at h
    split at h <;> cases h
    rfl
  · unfold decodeU at h
    split at h
    · cases h
    · split at h <;> cases h
      assumption
  · unfold decodeB at h
    split at h
    · cases h
    · split at h <;> cases h
      assumption
  iterate 2
    unfold decodeF at h
    split at h
    · cases h
    · split at h <;> cases h <;> rfl
  · cases h

/-- No command writes both `RESULT` and the registers of a decode (10_state.md R44). -/
theorem isDecode_of_writesResult {i : Instr} (h : writesResult i = true) : isDecode i = false := by
  cases i with
  | crc | extu | extb => rfl
  | matchScmp | matchIdm | decodeScmp | decodeIdm => cases h

/-- The enable bit of a decode's format (10_state.md R28). -/
def crcEnforced (i : Instr) (cfg : Word) : Bool :=
  if i = .decodeIdm then idmCrcEn cfg else scmpCrcEn cfg

/-- The ways a host write of `w` to `CMD` ends, one constructor per row of the write sets of
10_state.md R44 and outcome; `command_effect` ties it to `command`. -/
inductive CommandEffect (w : Word) (s : State) : State → Prop
  /-- No command stands at `w` (30_encoding.md R90). -/
  | illegal {e : Reject} (hw : decode w = .error e) :
      CommandEffect w s (finish .illegalCommand (latch w s))
  /-- `CRC`, `EXTU` or `EXTB` past the declared row (42_extract.md R143). -/
  | outOfRange {i : Instr} (hw : decode w = .ok i) (hi : writesResult i = true) :
      CommandEffect w s (finish .rangeError (latch w s))
  /-- `CRC`, `EXTU` or `EXTB` with its value (10_state.md R31). -/
  | value {i : Instr} (v : Word) (hw : decode w = .ok i) (hi : writesResult i = true) :
      CommandEffect w s (finish .success (setResult v (latch w s)))
  /-- `MATCH.SCMP` or `MATCH.IDM` (41_match.md R124, R125). -/
  | matcher {i : Instr} (m : MatchResult) (hw : decode w = .ok i) (hi : writesResult i = false)
      (hd : isDecode i = false) :
      CommandEffect w s (finish m.outcome (latch w s))
  /-- A decode that stops in `MATCHING` (44_decode.md R181). -/
  | decodeMismatch {i : Instr} {m : MatchResult} (hm : m ≠ .matched) (hw : decode w = .ok i)
      (hd : isDecode i = true) :
      CommandEffect w s (finish m.outcome (decodePrologue (latch w s)))
  /-- A decode that stops in `VALIDATING` (44_decode.md R192, R203). -/
  | decodeIntegrity {i : Instr} (f : FrameSpec) (hw : decode w = .ok i) (hd : isDecode i = true) :
      CommandEffect w s (finish .integrityFailure (validated f (latch w s)))
  /-- A decode that succeeds (44_decode.md R184). -/
  | decodeSuccess {i : Instr} (f : FrameSpec) (l : List Word) (hw : decode w = .ok i)
      (hd : isDecode i = true) :
      CommandEffect w s
        (finish .success (setMic (crcEnforced i s.cfg) (setFields l (validated f (latch w s)))))

/-- The dispatcher ends in one of the three ways a decode has. -/
theorem decodeFrame_effect {w : Word} {i : Instr} (hw : decode w = .ok i) (hd : isDecode i = true)
    (f : FrameSpec) (ex : Memory → List Word) (s : State) :
    ∃ t, decodeFrame f (crcEnforced i s.cfg) ex (latch w s) = .next t ∧ CommandEffect w s t := by
  obtain ⟨o, u, hu⟩ := decodeFrame_completes f (crcEnforced i s.cfg) ex (latch w s)
  refine ⟨_, hu, ?_⟩
  obtain ⟨hm, ht⟩ | ⟨-, -, -, ht⟩ | ⟨-, -, ht⟩ := decodeFrame_cases hu
  · exact ht ▸ .decodeMismatch hm hw hd
  · exact ht ▸ .decodeIntegrity f hw hd
  · exact ht ▸ .decodeSuccess f _ hw hd

/-- A legal word's command completes, in one of the ways `CommandEffect` lists. -/
theorem exec_effect {w : Word} {i : Instr} (hw : decode w = .ok i) (s : State) :
    ∃ t, exec i (latch w s) = .next t ∧ CommandEffect w s t := by
  have hwf := decode_wellFormed hw
  cases i with
  | crc off len =>
    simp only [exec_crc, execCrc]
    split
    · exact ⟨_, rfl, .outOfRange hw rfl⟩
    · exact ⟨_, rfl, .value _ hw rfl⟩
  | extu off n =>
    have hn : extuWidthOk n = true := hwf
    simp only [exec_extu, execExtu, hn, Bool.not_true, Bool.false_eq_true, if_false]
    split
    · exact ⟨_, rfl, .outOfRange hw rfl⟩
    · exact ⟨_, rfl, .value _ hw rfl⟩
  | extb pos n =>
    have hn : extbWidthOk n = true := hwf
    simp only [exec_extb, execExtb, hn, Bool.not_true, Bool.false_eq_true, if_false]
    split
    · exact ⟨_, rfl, .outOfRange hw rfl⟩
    · exact ⟨_, rfl, .value _ hw rfl⟩
  | matchScmp => exact ⟨_, rfl, .matcher _ hw rfl rfl⟩
  | matchIdm => exact ⟨_, rfl, .matcher _ hw rfl rfl⟩
  | decodeScmp => exact decodeFrame_effect hw rfl scmpSpec scmpFields s
  | decodeIdm => exact decodeFrame_effect hw rfl (idmSpec s.params) (idmFields s.params) s

/-- Every write to `CMD` completes, in one of the ways `CommandEffect` lists. -/
theorem command_effect (w : Word) (s : State) : ∃ t, command w s = .next t ∧ CommandEffect w s t := by
  cases hw : decode w with
  | ok i => rw [command_of_decode hw]; exact exec_effect hw s
  | error e => exact ⟨_, command_of_reject hw s, .illegal hw⟩

theorem CommandEffect.of_command {w : Word} {s t : State} (h : command w s = .next t) :
    CommandEffect w s t := by
  obtain ⟨u, hu, he⟩ := command_effect w s
  obtain rfl := Host.Outcome.next.inj (hu.symm.trans h)
  exact he

/-! ### What a command writes and what it leaves -/

/-- The error outcomes are codes 5 and 6 (10_state.md R23, R24). -/
theorem OutcomeCode.isError_eq_decide (o : OutcomeCode) :
    o.isError = decide (o.code = 5 ∨ o.code = 6) := by
  cases o <;> rfl

/-- A match ends in code 1, 2 or 3 (41_match.md R124). -/
theorem MatchResult.outcome_code_le (m : MatchResult) : m.outcome.code.toNat ≤ 3 := by
  cases m <;> decide

theorem MatchResult.outcome_code_ne_one {m : MatchResult} (hm : m ≠ .matched) : m.outcome.code ≠ 1#4 := by
  cases m with
  | matched => exact absurd rfl hm
  | lengthMismatch | preambleMismatch => decide

namespace CommandEffect

variable {w : Word} {s t : State} (h : CommandEffect w s t)
include h

/-- The registers and the model's own fields that no command writes (10_state.md R44). -/
theorem unwritten :
    t.frame = s.frame ∧ t.bitlen = s.bitlen ∧ t.cfg = s.cfg ∧ t.crcPoly = s.crcPoly ∧
      t.crcInit = s.crcInit ∧ t.crcXorout = s.crcXorout ∧ t.params = s.params ∧ t.draw = s.draw ∧
      t.pending = s.pending ∧ t.reads = s.reads := by
  cases h <;> simp [validated]

/-- Every command latches its word and its `OP` (10_state.md R21, R26). -/
theorem latched : t.cmd = w ∧ statusLastop t.status = w.extractLsb' 28 4 := by
  cases h <;> simp [validated, opField]

theorem status_reserved : t.status.extractLsb' 10 22 = s.status.extractLsb' 10 22 := by
  cases h <;> simp [validated]

/-- `ERR` after a command (10_state.md R24). -/
theorem statusErr_eq :
    statusErr t.status = (statusErr s.status ||
      decide (statusOutcome t.status = 5 ∨ statusOutcome t.status = 6)) := by
  cases h <;> simp [validated, OutcomeCode.isError_eq_decide, Bool.or_comm]

/-- Only the three commands that read a range can end in `RANGE_ERROR` (10_state.md R44). -/
theorem rangeError_source (h5 : statusOutcome t.status = 5) :
    ∃ i, decode w = .ok i ∧ writesResult i = true := by
  cases h with
  | outOfRange hw hi => exact ⟨_, hw, hi⟩
  | value v hw hi => exact ⟨_, hw, hi⟩
  | illegal | decodeIntegrity | decodeSuccess => simp [OutcomeCode.code] at h5
  | matcher m | @decodeMismatch _ m =>
    simp only [finish_status, statusOutcome_finishStatus] at h5
    exact absurd m.outcome_code_le (by simp [h5])

/-- `ILLEGAL_COMMAND` is the outcome of the illegal words (30_encoding.md R90). -/
theorem illegalCommand_iff : statusOutcome t.status = 6 ↔ ∃ e, decode w = .error e := by
  cases h with
  | illegal hw => simp [hw, OutcomeCode.code]
  | outOfRange hw | value _ hw | decodeIntegrity _ hw | decodeSuccess _ _ hw =>
    simp [hw, OutcomeCode.code]
  | matcher m hw | @decodeMismatch _ m _ hw =>
    have h6 : m.outcome.code ≠ 6#4 := fun h6 => absurd m.outcome_code_le (by simp [h6])
    simp [hw, h6]

/-- `RESULT` is written by a `SUCCESS` of the three commands that have a value (10_state.md R31). -/
theorem result_source (hr : t.result ≠ s.result) :
    statusOutcome t.status = 1 ∧ ∃ i, decode w = .ok i ∧ writesResult i = true := by
  cases h with
  | value v hw hi => exact ⟨by simp [OutcomeCode.code], _, hw, hi⟩
  | illegal | outOfRange | matcher | decodeMismatch | decodeIntegrity | decodeSuccess =>
    simp [validated] at hr

/-- The registers of a decode are left alone by every other word (10_state.md R25, R44). -/
theorem decode_registers_kept (hn : ∀ i, decode w = .ok i → isDecode i = false) :
    t.fields = s.fields ∧ t.crcRx = s.crcRx ∧ t.crcCalc = s.crcCalc ∧ t.sncrcRx = s.sncrcRx ∧
      t.sncrcCalc = s.sncrcCalc ∧ statusMic t.status = statusMic s.status := by
  cases h with
  | illegal | outOfRange | value | matcher => simp
  | decodeMismatch _ hw hd | decodeIntegrity _ hw hd | decodeSuccess _ _ hw hd =>
    simp [hn _ hw] at hd

variable {i : Instr} (hw : decode w = .ok i) (hd : isDecode i = true)
include hw hd

/-- The three ways a decode ends. -/
theorem decode_cases :
    (∃ m : MatchResult, m ≠ .matched ∧ t = finish m.outcome (decodePrologue (latch w s))) ∨
    (∃ f, t = finish .integrityFailure (validated f (latch w s))) ∨
    (∃ f l, t = finish .success
      (setMic (crcEnforced i s.cfg) (setFields l (validated f (latch w s))))) := by
  cases h with
  | illegal hw' => cases hw.symm.trans hw'
  | outOfRange hw' hi | value _ hw' hi =>
    obtain rfl := Except.ok.inj (hw.symm.trans hw')
    simp [isDecode_of_writesResult hi] at hd
  | matcher _ hw' _ hd' =>
    obtain rfl := Except.ok.inj (hw.symm.trans hw')
    simp [hd'] at hd
  | decodeMismatch hm => exact .inl ⟨_, hm, rfl⟩
  | decodeIntegrity f => exact .inr (.inl ⟨f, rfl⟩)
  | decodeSuccess f l hw' =>
    obtain rfl := Except.ok.inj (hw.symm.trans hw')
    exact .inr (.inr ⟨f, l, rfl⟩)

/-- `MIC` after a decode (10_state.md R25). -/
theorem statusMic_of_decode :
    statusMic t.status = (decide (statusOutcome t.status = 1) && crcEnforced i s.cfg) := by
  obtain ⟨m, hm, rfl⟩ | ⟨f, rfl⟩ | ⟨f, l, rfl⟩ := h.decode_cases hw hd
  · simp [MatchResult.outcome_code_ne_one hm]
  · simp [validated, OutcomeCode.code]
  · simp [OutcomeCode.code]

/-- A decode that does not succeed leaves the prologue's zeros in the fields and `MIC`
(44_decode.md R181). -/
theorem noRecordLeft_of_failed (hf : statusOutcome t.status ≠ 1) : NoRecordLeft t := by
  obtain ⟨m, -, rfl⟩ | ⟨f, rfl⟩ | ⟨f, l, rfl⟩ := h.decode_cases hw hd
  · simp [NoRecordLeft, fieldFile_nil]
  · simp [NoRecordLeft, validated, fieldFile_nil]
  · simp [OutcomeCode.code] at hf

/-- A decode that stops in `MATCHING` leaves the prologue's zeros in the diagnostic registers
(10_state.md R32, 44_decode.md R181). -/
theorem diagnostics_of_mismatch (hf : statusOutcome t.status = 2 ∨ statusOutcome t.status = 3) :
    t.crcRx = 0 ∧ t.crcCalc = 0 ∧ t.sncrcRx = 0 ∧ t.sncrcCalc = 0 := by
  obtain ⟨m, -, rfl⟩ | ⟨f, rfl⟩ | ⟨f, l, rfl⟩ := h.decode_cases hw hd
  · simp
  · simp [OutcomeCode.code] at hf
  · simp [OutcomeCode.code] at hf

end CommandEffect

/-- Settles O38: a decode by the three ways it ends, every other word by what it leaves. -/
theorem micOnlyFromDecode : Obligations.MicOnlyFromDecode := by
  intro w s t hc
  have h := CommandEffect.of_command hc
  refine ⟨fun hw => h.statusMic_of_decode hw rfl, fun hw => h.statusMic_of_decode hw rfl, fun hn => ?_⟩
  obtain ⟨-, -, -, -, -, hmic⟩ := h.decode_registers_kept hn
  exact hmic

/-- Settles O39, clause by clause from the ways a command ends. -/
theorem commandWriteSets : Obligations.CommandWriteSets := by
  intro w s t hc
  have h := CommandEffect.of_command hc
  obtain ⟨hcmd, hop⟩ := h.latched
  obtain ⟨hframe, hbitlen, hcfg, hpoly, hinit, hxor, hparams, hdraw, hpending, hreads⟩ := h.unwritten
  exact ⟨hcmd, hop, fun a => by rw [hframe], hframe, hbitlen, hcfg, hpoly, hinit, hxor, hparams, hdraw,
    hpending, hreads, h.status_reserved, h.statusErr_eq, h.rangeError_source, h.illegalCommand_iff,
    h.result_source, h.decode_registers_kept, fun i hw hd =>
      ⟨h.noRecordLeft_of_failed hw hd, h.diagnostics_of_mismatch hw hd⟩⟩

/-! ### The accesses -/

/-- An aligned offset at which a register is found is that register's own (20_memory.md R60). -/
theorem offset_of_regAt {off : Nat} {r : Reg} (hal : off % 4 = 0) (h : regAt off = some r) :
    r.offset = off := by
  unfold regAt at h
  split at h
  case h_13 =>
    split at h
    · cases h
    split at h
    · cases h; simp only [Reg.offset]; omega
    split at h
    · cases h
    split at h
    · cases h; simp only [Reg.offset]; omega
    · cases h
  all_goals cases h; rfl

/-- An access that is not refused is a word access to a register's own address
(20_memory.md R60, R61). -/
theorem accessTarget_eq_ok {base addr width : Nat} {r : Reg} (h : accessTarget base addr width = .ok r) :
    width = 32 ∧ addr = base + r.offset := by
  unfold accessTarget at h
  split at h
  · cases h
  split at h
  · cases h
  split at h
  · cases h
  next hw hin hal =>
  split at h <;> cases h
  next hr =>
  have := offset_of_regAt (not_not.mp hal) hr
  exact ⟨not_not.mp hw, by omega⟩

/-- `CMD` alone stands at offset 0 (20_memory.md R60). -/
theorem offset_eq_zero {r : Reg} : r.offset = 0 ↔ r = .cmd := by
  cases r <;> simp [Reg.offset]

/-- Everything a host access can do. -/
theorem serve_cases {a : HostAccess} {s t : State} (h : serve a s = .next t) :
    (a = .reset ∧ t = hostReset s) ∨
    (∃ r : Reg, a = .read (s.params.base + r.offset) 32 ∧ t = hostRead r s) ∨
    (∃ r : Reg, ∃ v, a = .write (s.params.base + r.offset) 32 v ∧ hostWrite r v s = .next t) := by
  unfold serve at h
  split at h
  · cases h
  cases a with
  | reset => exact .inl ⟨rfl, (Host.Outcome.next.inj h).symm⟩
  | read addr width =>
    dsimp only at h
    split at h
    · next r hr =>
      obtain ⟨rfl, rfl⟩ := accessTarget_eq_ok hr
      exact .inr (.inl ⟨r, rfl, (Host.Outcome.next.inj h).symm⟩)
    · cases h
  | write addr width v =>
    dsimp only at h
    split at h
    · next r hr =>
      obtain ⟨rfl, rfl⟩ := accessTarget_eq_ok hr
      exact .inr (.inr ⟨r, v, rfl, h⟩)
    · cases h

/-- Writing any register but `CMD` runs no command and keeps `STATUS` (10_state.md R21, R34). -/
theorem status_of_hostWrite {r : Reg} {v : Word} {s t : State} (hr : r ≠ .cmd)
    (h : hostWrite r v s = .next t) : t.status = s.status := by
  cases r with
  | cmd => exact absurd rfl hr
  | _ => cases h; rfl

/-- Settles O37, by the three things a host access can be. -/
theorem errIsStickyUntilReset : Obligations.ErrIsStickyUntilReset := by
  intro s t a rest hp hs
  have h : serve a { s with pending := rest } = .next t := by
    simpa only [step, serveNext, hp] using hs
  obtain ⟨rfl, rfl⟩ | ⟨r, rfl, rfl⟩ | ⟨r, v, rfl, hw⟩ := serve_cases h
  · exact ⟨fun _ => by simp [statusErr], nofun, fun hr => absurd rfl hr⟩
  · exact ⟨nofun, nofun, fun _ _ => rfl⟩
  · refine ⟨nofun, fun w he => ?_, fun _ hn => ?_⟩
    · obtain rfl : r = .cmd := offset_eq_zero.mp (by simpa using (HostAccess.write.inj he).1)
      exact (CommandEffect.of_command hw).statusErr_eq
    · have hr : r ≠ .cmd := by
        rintro rfl
        exact hn v rfl
      rw [status_of_hostWrite hr hw]

/-! ### Reserved bits -/

theorem getLsbD_lowMask (k i : Nat) (hi : i < 32) :
    (BitVec.ofNat 32 (2 ^ k - 1)).getLsbD i = decide (i < k) := by
  simp only [BitVec.getLsbD_ofNat, Nat.testBit_two_pow_sub_one, hi, decide_true, Bool.true_and]

/-- The low `k` bits of a word, zero-extended, are the word under their mask. -/
theorem setWidth_extractLsb'_zero (v : Word) (k : Nat) :
    (v.extractLsb' 0 k).setWidth 32 = v &&& BitVec.ofNat 32 (2 ^ k - 1) := by
  apply BitVec.eq_of_getLsbD_eq
  intro i hi
  simp only [BitVec.getLsbD_and, getLsbD_lowMask k i hi, BitVec.getLsbD_setWidth,
    BitVec.getLsbD_extractLsb', Nat.zero_add, hi, decide_true, Bool.true_and, Bool.and_comm]

theorem ofHalf_lowHalf (v : Word) : ofHalf (lowHalf v) = v &&& 0x0000FFFF :=
  setWidth_extractLsb'_zero v 16

/-- A word whose bits from `k` up are 0 has no bit outside the mask of its low `k` bits. -/
theorem and_not_mask_eq_zero {v : Word} (k : Nat) {n : Nat} (h : v.extractLsb' k n = 0)
    (hn : 32 ≤ k + n) : v &&& ~~~ (BitVec.ofNat 32 (2 ^ k - 1)) = 0 := by
  apply BitVec.eq_of_getLsbD_eq
  intro i hi
  rw [BitVec.getLsbD_and, BitVec.getLsbD_not, getLsbD_lowMask k i hi]
  by_cases hk : i < k
  · simp [hk]
  · have hbit := congrArg (fun x => x.getLsbD (i - k)) h
    have hlt : i - k < n := by omega
    have hsum : k + (i - k) = i := by omega
    have hv : v.getLsbD i = false := by simpa [hlt, hsum] using hbit
    simp [hv]

/-- A reserved bit reads as 0 (10_state.md R34). -/
theorem readReg_reserved (r : Reg) {s : State} (h : s.Inv) : readReg r s &&& ~~~ r.meaningful = 0 := by
  cases r with
  | status => exact and_not_mask_eq_zero 10 h.status_reserved (by decide)
  | cfg => exact and_not_mask_eq_zero 2 h.cfg_reserved (by decide)
  | bitlen => exact and_not_mask_eq_zero 16 h.bitlen_reserved (by decide)
  | crcPoly => exact and_not_mask_eq_zero 16 h.crcPoly_reserved (by decide)
  | crcInit => exact and_not_mask_eq_zero 16 h.crcInit_reserved (by decide)
  | crcXorout => exact and_not_mask_eq_zero 16 h.crcXorout_reserved (by decide)
  | crcRx => exact and_not_mask_eq_zero 16 h.crcRx_reserved (by decide)
  | crcCalc => exact and_not_mask_eq_zero 16 h.crcCalc_reserved (by decide)
  | sncrcRx => exact and_not_mask_eq_zero 16 h.sncrcRx_reserved (by decide)
  | sncrcCalc => exact and_not_mask_eq_zero 16 h.sncrcCalc_reserved (by decide)
  | cmd | result | field | fbw => simp [Reg.meaningful]

/-- A write to a read-only register changes nothing (10_state.md R34). -/
theorem hostWrite_readOnly {r : Reg} (v : Word) (s : State) (hr : r.readOnly = true) :
    hostWrite r v s = .next s := by
  cases r with
  | status | result | crcRx | crcCalc | sncrcRx | sncrcCalc | field => rfl
  | cmd | bitlen | cfg | crcPoly | crcInit | crcXorout | fbw => cases hr

/-- A write to `BITLEN`, `CFG` or a CRC parameter stores the bits that are not reserved in that register
and leaves every other (10_state.md R27 to R29). -/
theorem hostWrite_plain (v : Word) (s : State) :
    hostWrite .bitlen v s = .next { s with bitlen := v &&& 0x0000FFFF } ∧
    hostWrite .cfg v s = .next { s with cfg := v &&& 0x00000003 } ∧
    hostWrite .crcPoly v s = .next { s with crcPoly := v &&& 0x0000FFFF } ∧
    hostWrite .crcInit v s = .next { s with crcInit := v &&& 0x0000FFFF } ∧
    hostWrite .crcXorout v s = .next { s with crcXorout := v &&& 0x0000FFFF } := by
  have hcfg : (v.extractLsb' 0 2).setWidth 32 = v &&& 0x00000003 := setWidth_extractLsb'_zero v 2
  simp only [hostWrite, writeReg, ofHalf_lowHalf, hcfg, and_self]

/-- A write to a writable register stores its meaningful bits, also when it runs a command
(10_state.md R21, R34). -/
theorem hostWrite_stores {r : Reg} (v : Word) (s : State) (hr : r.readOnly = false) :
    ∃ t, hostWrite r v s = .next t ∧ readReg r t = v &&& r.meaningful := by
  obtain ⟨hbitlen, hcfg, hpoly, hinit, hxor⟩ := hostWrite_plain v s
  have hall : v &&& 0xFFFFFFFF = v := BitVec.and_allOnes
  cases r with
  | cmd =>
    obtain ⟨t, ht, he⟩ := command_effect v s
    exact ⟨t, ht, he.latched.1.trans hall.symm⟩
  | bitlen => exact ⟨_, hbitlen, rfl⟩
  | cfg => exact ⟨_, hcfg, rfl⟩
  | crcPoly => exact ⟨_, hpoly, rfl⟩
  | crcInit => exact ⟨_, hinit, rfl⟩
  | crcXorout => exact ⟨_, hxor, rfl⟩
  | fbw j => exact ⟨_, rfl, (Memory.readWord_writeWord s.frame j.val v).trans hall.symm⟩
  | status | result | crcRx | crcCalc | sncrcRx | sncrcCalc | field => cases hr

/-- Settles O40: read-only registers, writable registers, the plain ones, and reads under the invariant. -/
theorem reservedAndReadOnlyBits : Obligations.ReservedAndReadOnlyBits :=
  ⟨fun _ v s => hostWrite_readOnly v s, fun _ v s => hostWrite_stores v s, hostWrite_plain,
    fun r _ => readReg_reserved r⟩

/-! ### Reset -/

/-- A machine is built from the reset state with the parameters given, or not at all
(10_state.md R42, R45). -/
theorem configure_eq_some {p : Params} {s : State} (h : configure p = some s) :
    s = { State.reset with params := p } := by
  unfold configure at h
  split at h <;> cases h
  rfl

/-- Settles O49: the machine built is the reset state but for its parameters. -/
theorem resetRegisterValues : Obligations.ResetRegisterValues := by
  intro p s h
  obtain rfl := configure_eq_some h
  simp [State.reset]

end Sys2Proof.Machine
end

section
/-! SUPPORT. Proofs of the statements about the host's view of the block (20_memory.md): the frame words,
and which accesses the interface contract allows; the statements O41, O42. -/

namespace Sys2Proof.Machine

open Sys2Proof

/-! ### Frame words -/

/-- Four bytes in a row make the word that holds each at its place, the first most significant
(20_memory.md R62). -/
theorem append_bytes_eq_or (a b c d : Byte) :
    (a ++ b ++ c ++ d : Word) =
      (a.setWidth 32 <<< 24) ||| (b.setWidth 32 <<< 16) ||| (c.setWidth 32 <<< 8) ||| d.setWidth 32 := by
  ext i hi
  simp
  grind

/-- A frame word as the disjunction of its shifted bytes (20_memory.md R62). -/
theorem Memory.readWord_eq_or (m : Memory) (j : Nat) :
    m.readWord j = ((m.read (4 * j)).setWidth 32 <<< 24) ||| ((m.read (4 * j + 1)).setWidth 32 <<< 16) |||
      ((m.read (4 * j + 2)).setWidth 32 <<< 8) ||| (m.read (4 * j + 3)).setWidth 32 :=
  append_bytes_eq_or _ _ _ _

/-- A write to a frame word keeps every byte outside it (20_memory.md R62). -/
theorem Memory.read_writeWord_of_outside (m : Memory) {j a : Nat} (v : Word)
    (ha : a < 4 * j ∨ 4 * j + 4 ≤ a) : (m.writeWord j v).read a = m.read a := by
  rw [Memory.read_writeWord, if_neg (by omega), if_neg (by omega), if_neg (by omega), if_neg (by omega)]

/-- Every frame byte lies in exactly one of the 23 words, the one at a quarter of its address
(20_memory.md R62). -/
theorem existsUnique_word_of_byte {a : Nat} (ha : a < 92) :
    ∃! j : Fin 23, 4 * j.val ≤ a ∧ a < 4 * j.val + 4 := by
  refine ⟨⟨a / 4, by omega⟩, ?_, fun j hj => Fin.ext ?_⟩
  · dsimp only; omega
  · dsimp only at hj ⊢; omega

/-- Settles O41: reading, writing and the partition, by the laws of frame words. -/
theorem frameWordsAreBigEndian : Obligations.FrameWordsAreBigEndian := by
  refine ⟨fun j s => Memory.readWord_eq_or s.frame j, fun j v s => ⟨s.frame.writeWord j v, rfl, ?_⟩,
    fun _ => existsUnique_word_of_byte⟩
  refine ⟨?_, ?_, ?_, ?_, fun _ => Memory.read_writeWord_of_outside s.frame v⟩ <;>
    simp [Memory.read_writeWord]

/-! ### The interface contract -/

/-- The mapped offsets are those of the registers (20_memory.md R60). -/
theorem mapped_iff {off : Nat} : Mapped off ↔ ∃ r : Reg, r.offset = off := by
  constructor
  · rintro ⟨hal, hlow | ⟨hge, hle⟩ | ⟨hge, hle⟩⟩
    · have plain : ∀ k : Fin 12, ∃ r ∈ regAt (4 * k.val), r.offset = 4 * k.val := by decide
      obtain ⟨r, -, hr⟩ := plain ⟨off / 4, by omega⟩
      exact ⟨r, by dsimp only at hr; omega⟩
    · exact ⟨.field ⟨(off - 0x040) / 4, by omega⟩, by simp only [Reg.offset]; omega⟩
    · exact ⟨.fbw ⟨(off - 0x100) / 4, by omega⟩, by simp only [Reg.offset]; omega⟩
  · rintro ⟨r, rfl⟩
    cases r with
    | field k => simp only [Mapped, Reg.offset]; omega
    | fbw j => simp only [Mapped, Reg.offset]; omega
    | _ => simp [Mapped, Reg.offset]

/-- The contract allows the word accesses to the registers' own addresses (20_memory.md R61). -/
theorem inContract_iff {base addr width : Nat} :
    InContract base addr width ↔ width = 32 ∧ ∃ r : Reg, addr = base + r.offset := by
  unfold InContract
  rw [mapped_iff]
  refine and_congr_right fun _ => ⟨?_, ?_⟩
  · rintro ⟨hbase, r, hr⟩
    exact ⟨r, by omega⟩
  · rintro ⟨r, rfl⟩
    exact ⟨by omega, r, by omega⟩

/-- The port finds a register exactly for the accesses inside the contract (20_memory.md R61). -/
theorem exists_accessTarget_iff {base addr width : Nat} :
    (∃ r, accessTarget base addr width = .ok r) ↔ InContract base addr width := by
  rw [inContract_iff]
  constructor
  · rintro ⟨r, hr⟩
    obtain ⟨hw, ha⟩ := accessTarget_eq_ok hr
    exact ⟨hw, r, ha⟩
  · rintro ⟨rfl, r, rfl⟩
    exact ⟨r, accessTarget_offset base r⟩

/-- An access outside the contract reaches no register (20_memory.md R61). -/
theorem accessTarget_eq_error_of_not_inContract {base addr width : Nat} (h : ¬ InContract base addr width) :
    ∃ e, accessTarget base addr width = .error e := by
  cases ht : accessTarget base addr width with
  | ok r => exact absurd (exists_accessTarget_iff.mp ⟨r, ht⟩) h
  | error e => exact ⟨e, rfl⟩

/-- A host write to a register always completes, a command's among them (60_exceptions.md R224). -/
theorem hostWrite_completes (r : Reg) (v : Word) (s : State) : ∃ t, hostWrite r v s = .next t := by
  cases hr : r.readOnly with
  | true => exact ⟨s, hostWrite_readOnly v s hr⟩
  | false =>
    obtain ⟨t, ht, -⟩ := hostWrite_stores v s hr
    exact ⟨t, ht⟩

/-- An allowed access is served (20_memory.md R61, R72). -/
theorem serve_of_allowed {a : HostAccess} {s : State} (hp : paramsOk s.params = true)
    (ha : a.allowed s.params.base) : ∃ t, serve a s = .next t := by
  cases a with
  | reset => exact ⟨hostReset s, by simp [serve, hp]⟩
  | read addr width =>
    obtain ⟨r, hr⟩ := exists_accessTarget_iff.mpr ha
    exact ⟨hostRead r s, serve_read hp hr⟩
  | write addr width v =>
    obtain ⟨r, hr⟩ := exists_accessTarget_iff.mpr ha
    exact serve_write hp hr ▸ hostWrite_completes r v s

/-- Any other access is refused (20_memory.md R61). -/
theorem serve_of_not_allowed {a : HostAccess} {s : State} (hp : paramsOk s.params = true)
    (ha : ¬ a.allowed s.params.base) : ∃ e, serve a s = .refused e := by
  cases a with
  | reset => exact absurd trivial ha
  | read addr width | write addr width v =>
    obtain ⟨e, he⟩ := accessTarget_eq_error_of_not_inContract ha
    exact ⟨e, by simp [serve, hp, he]⟩

/-- A step performs the oldest pending access (20_memory.md R72). -/
theorem step_of_pending {s : State} {a : HostAccess} {rest : List HostAccess} (h : s.pending = a :: rest) :
    step s = serve a { s with pending := rest } := by
  simp only [step, serveNext, h]

/-- Settles O42: an allowed access is served, any other is refused, and no step is both. -/
theorem outOfContractAccessIsRefused : Obligations.OutOfContractAccessIsRefused := by
  intro s a rest hp hpend
  rw [step_of_pending hpend]
  by_cases ha : a.allowed s.params.base
  · obtain ⟨t, ht⟩ := serve_of_allowed (s := { s with pending := rest }) hp ha
    simp [ht, ha]
  · obtain ⟨e, he⟩ := serve_of_not_allowed (s := { s with pending := rest }) hp ha
    simp [he, ha]

end Sys2Proof.Machine
end

section
/-! SUPPORT. Proofs of the statements about the opcode map (30_encoding.md): the rows of R88 as conditions on
the fields of a word, and the decoder as the search for the matching row; the statements O3, O4. -/

namespace Sys2Proof.Machine

open Sys2Proof Sys2Proof.Laws

/-! ### A word and its fields -/

/-- Two words agree on a field exactly when they agree above and below a cut in it. -/
theorem extractLsb'_add_eq_iff (v w : Word) (start low high : Nat) :
    v.extractLsb' start (low + high) = w.extractLsb' start (low + high) ↔
      v.extractLsb' (start + low) high = w.extractLsb' (start + low) high ∧
        v.extractLsb' start low = w.extractLsb' start low := by
  simp only [BitVec.eq_of_getLsbD_eq_iff, BitVec.getLsbD_extractLsb']
  refine ⟨fun h => ⟨fun i hi => ?_, fun i hi => ?_⟩, fun ⟨hhigh, hlow⟩ i hi => ?_⟩
  · have := h (low + i) (by omega)
    simpa [hi, ← Nat.add_assoc] using this
  · have := h i (by omega)
    simpa [hi, Nat.lt_add_right high hi] using this
  · by_cases hcut : i < low
    · have := hlow i hcut
      simpa [hi, hcut] using this
    · have := hhigh (i - low) (by omega)
      have hsum : start + low + (i - low) = start + i := by omega
      have hlt : i - low < high := by omega
      simpa [hi, hlt, hsum] using this

/-- Two words are equal exactly when they agree on `OP` and on the 28 bits below it. -/
theorem word_eq_iff (v w : Word) :
    v = w ↔ opField v = opField w ∧ v.extractLsb' 0 28 = w.extractLsb' 0 28 := by
  have h := extractLsb'_add_eq_iff v w 0 28 4
  rwa [BitVec.extractLsb'_eq_self, BitVec.extractLsb'_eq_self] at h

/-- A mask of ones keeps the field under it. -/
theorem and_eq_self_of_allOnes {n : Nat} {m : BitVec n} (x : BitVec n) (h : m = BitVec.allOnes n) :
    x &&& m = x :=
  h ▸ BitVec.and_allOnes

/-! ### The rows of the opcode map -/

/-- Row `CRC` fixes `OP` and bits 27 to 16 (30_encoding.md R83, R88). -/
theorem rowMatches_crc_iff {w : Word} :
    rowMatches 0 w ↔ opField w = 1 ∧ w.extractLsb' 16 12 = 0 := by
  rw [rowMatches, word_eq_iff, extractLsb'_add_eq_iff _ _ 0 16 12]
  simp [BitVec.extractLsb'_and, and_eq_self_of_allOnes, opField]

/-- Row `EXTU` fixes `OP` and bits 27 to 16 and 7 to 3, and bounds `W` (30_encoding.md R84, R88). -/
theorem rowMatches_extu_iff {w : Word} :
    rowMatches 1 w ↔ opField w = 2 ∧ w.extractLsb' 16 12 = 0 ∧ w.extractLsb' 3 5 = 0 ∧
      extuWidthOk (w.extractLsb' 0 3) = true := by
  rw [rowMatches, word_eq_iff, extractLsb'_add_eq_iff _ _ 0 16 12, extractLsb'_add_eq_iff _ _ 0 8 8,
    extractLsb'_add_eq_iff _ _ 0 3 5]
  simp [BitVec.extractLsb'_and, and_eq_self_of_allOnes, opField, extuWidthOk, and_assoc]

/-- Row `EXTB` fixes `OP` and bits 27 to 20 and 7 to 6, and bounds `W` (30_encoding.md R85, R88). -/
theorem rowMatches_extb_iff {w : Word} :
    rowMatches 2 w ↔ opField w = 3 ∧ w.extractLsb' 20 8 = 0 ∧ w.extractLsb' 6 2 = 0 ∧
      extbWidthOk (w.extractLsb' 0 6) = true := by
  rw [rowMatches, word_eq_iff, extractLsb'_add_eq_iff _ _ 0 20 8, extractLsb'_add_eq_iff _ _ 0 8 12,
    extractLsb'_add_eq_iff _ _ 0 6 2]
  simp [BitVec.extractLsb'_and, and_eq_self_of_allOnes, opField, extbWidthOk, and_assoc]

/-- A row of format F fixes every bit: `OP`, bits 27 to 4 and `FMT` (30_encoding.md R86, R88). -/
theorem and_maskF_eq_iff (v w : Word) :
    w &&& 0xFFFFFFFF = v ↔
      opField w = opField v ∧ w.extractLsb' 4 24 = v.extractLsb' 4 24 ∧
        w.extractLsb' 0 4 = v.extractLsb' 0 4 := by
  have hmask : w &&& 0xFFFFFFFF = w := BitVec.and_allOnes
  rw [hmask, word_eq_iff, extractLsb'_add_eq_iff _ _ 0 4 24, Nat.zero_add]

theorem rowMatches_matchScmp_iff {w : Word} :
    rowMatches 3 w ↔ opField w = 4 ∧ w.extractLsb' 4 24 = 0 ∧ w.extractLsb' 0 4 = 0 :=
  and_maskF_eq_iff _ w

theorem rowMatches_matchIdm_iff {w : Word} :
    rowMatches 4 w ↔ opField w = 4 ∧ w.extractLsb' 4 24 = 0 ∧ w.extractLsb' 0 4 = 1 :=
  and_maskF_eq_iff _ w

theorem rowMatches_decodeScmp_iff {w : Word} :
    rowMatches 5 w ↔ opField w = 5 ∧ w.extractLsb' 4 24 = 0 ∧ w.extractLsb' 0 4 = 0 :=
  and_maskF_eq_iff _ w

theorem rowMatches_decodeIdm_iff {w : Word} :
    rowMatches 6 w ↔ opField w = 5 ∧ w.extractLsb' 4 24 = 0 ∧ w.extractLsb' 0 4 = 1 :=
  and_maskF_eq_iff _ w

/-! ### The decoder, format by format -/

theorem decodeR_eq_ok_iff {w : Word} {i : Instr} :
    decodeR w = .ok i ↔
      w.extractLsb' 16 12 = 0 ∧ .crc (w.extractLsb' 8 8) (w.extractLsb' 0 8) = i := by
  unfold decodeR
  split <;> simp_all

theorem decodeU_eq_ok_iff {w : Word} {i : Instr} :
    decodeU w = .ok i ↔
      (w.extractLsb' 16 12 = 0 ∧ w.extractLsb' 3 5 = 0 ∧ extuWidthOk (w.extractLsb' 0 3) = true) ∧
        .extu (w.extractLsb' 8 8) (w.extractLsb' 0 3) = i := by
  unfold decodeU
  split
  next hbits => exact iff_of_false nofun fun ⟨⟨hhigh, hlow, _⟩, _⟩ => hbits.elim (· hhigh) (· hlow)
  · split <;> simp_all

theorem decodeB_eq_ok_iff {w : Word} {i : Instr} :
    decodeB w = .ok i ↔
      (w.extractLsb' 20 8 = 0 ∧ w.extractLsb' 6 2 = 0 ∧ extbWidthOk (w.extractLsb' 0 6) = true) ∧
        .extb (w.extractLsb' 8 12) (w.extractLsb' 0 6) = i := by
  unfold decodeB
  split
  next hbits => exact iff_of_false nofun fun ⟨⟨hhigh, hlow, _⟩, _⟩ => hbits.elim (· hhigh) (· hlow)
  · split <;> simp_all

theorem decodeF_eq_ok_iff {scmp idm : Instr} {w : Word} {i : Instr} :
    decodeF scmp idm w = .ok i ↔
      w.extractLsb' 4 24 = 0 ∧
        (w.extractLsb' 0 4 = 0 ∧ scmp = i ∨ w.extractLsb' 0 4 = 1 ∧ idm = i) := by
  simp only [BitVec.toNat_eq (x := w.extractLsb' 0 4)]
  unfold decodeF
  split
  · simp_all
  · split <;> simp_all

/-! ### The decoder as the search for the matching row -/

/-- The command of a row, with the operands at the fields of the row (30_encoding.md R83 to R88). -/
def rowInstr : Fin 7 → Word → Instr
  | 0, w => .crc (w.extractLsb' 8 8) (w.extractLsb' 0 8)
  | 1, w => .extu (w.extractLsb' 8 8) (w.extractLsb' 0 3)
  | 2, w => .extb (w.extractLsb' 8 12) (w.extractLsb' 0 6)
  | 3, _ => .matchScmp
  | 4, _ => .matchIdm
  | 5, _ => .decodeScmp
  | 6, _ => .decodeIdm

@[simp] theorem rowIndex_rowInstr (k : Fin 7) (w : Word) : rowIndex (rowInstr k w) = k := by
  fin_cases k <;> rfl

/-- `OP` is that of a format, or one of those that R90 lists first. -/
theorem opField_cases (w : Word) :
    opField w = 1 ∨ opField w = 2 ∨ opField w = 3 ∨ opField w = 4 ∨ opField w = 5 ∨
      ((opField w).toNat = 0 ∨ 6 ≤ (opField w).toNat) := by
  simp only [BitVec.toNat_eq, BitVec.reduceToNat, BitVec.ofNat_eq_ofNat]
  omega

theorem decode_of_opField_one {w : Word} (h : opField w = 1) : decode w = decodeR w := by
  simp [decode, h]

theorem decode_of_opField_two {w : Word} (h : opField w = 2) : decode w = decodeU w := by
  simp [decode, h]

theorem decode_of_opField_three {w : Word} (h : opField w = 3) : decode w = decodeB w := by
  simp [decode, h]

theorem decode_of_opField_four {w : Word} (h : opField w = 4) :
    decode w = decodeF .matchScmp .matchIdm w := by
  simp [decode, h]

theorem decode_of_opField_five {w : Word} (h : opField w = 5) :
    decode w = decodeF .decodeScmp .decodeIdm w := by
  simp [decode, h]

theorem decode_of_opField_other {w : Word} (h : (opField w).toNat = 0 ∨ 6 ≤ (opField w).toNat) :
    decode w = .error .opcode := by
  unfold decode
  split
  case h_6 => rfl
  all_goals omega

/-- A word that matches a row decodes to the command of that row. -/
theorem decode_of_rowMatches {k : Fin 7} {w : Word} (h : rowMatches k w) :
    decode w = .ok (rowInstr k w) := by
  match k with
  | 0 =>
    obtain ⟨hop, hbits⟩ := rowMatches_crc_iff.mp h
    rw [decode_of_opField_one hop]
    exact decodeR_eq_ok_iff.mpr ⟨hbits, rfl⟩
  | 1 =>
    obtain ⟨hop, hfields⟩ := rowMatches_extu_iff.mp h
    rw [decode_of_opField_two hop]
    exact decodeU_eq_ok_iff.mpr ⟨hfields, rfl⟩
  | 2 =>
    obtain ⟨hop, hfields⟩ := rowMatches_extb_iff.mp h
    rw [decode_of_opField_three hop]
    exact decodeB_eq_ok_iff.mpr ⟨hfields, rfl⟩
  | 3 =>
    obtain ⟨hop, hbits, hfmt⟩ := rowMatches_matchScmp_iff.mp h
    rw [decode_of_opField_four hop]
    exact decodeF_eq_ok_iff.mpr ⟨hbits, .inl ⟨hfmt, rfl⟩⟩
  | 4 =>
    obtain ⟨hop, hbits, hfmt⟩ := rowMatches_matchIdm_iff.mp h
    rw [decode_of_opField_four hop]
    exact decodeF_eq_ok_iff.mpr ⟨hbits, .inr ⟨hfmt, rfl⟩⟩
  | 5 =>
    obtain ⟨hop, hbits, hfmt⟩ := rowMatches_decodeScmp_iff.mp h
    rw [decode_of_opField_five hop]
    exact decodeF_eq_ok_iff.mpr ⟨hbits, .inl ⟨hfmt, rfl⟩⟩
  | 6 =>
    obtain ⟨hop, hbits, hfmt⟩ := rowMatches_decodeIdm_iff.mp h
    rw [decode_of_opField_five hop]
    exact decodeF_eq_ok_iff.mpr ⟨hbits, .inr ⟨hfmt, rfl⟩⟩

/-- A legal word matches the row of the command it stands for. -/
theorem rowMatches_of_decode {w : Word} {i : Instr} (h : decode w = .ok i) : rowMatches (rowIndex i) w := by
  obtain hop | hop | hop | hop | hop | hop := opField_cases w
  · rw [decode_of_opField_one hop] at h
    obtain ⟨hbits, rfl⟩ := decodeR_eq_ok_iff.mp h
    exact rowMatches_crc_iff.mpr ⟨hop, hbits⟩
  · rw [decode_of_opField_two hop] at h
    obtain ⟨hfields, rfl⟩ := decodeU_eq_ok_iff.mp h
    exact rowMatches_extu_iff.mpr ⟨hop, hfields⟩
  · rw [decode_of_opField_three hop] at h
    obtain ⟨hfields, rfl⟩ := decodeB_eq_ok_iff.mp h
    exact rowMatches_extb_iff.mpr ⟨hop, hfields⟩
  · rw [decode_of_opField_four hop] at h
    obtain ⟨hbits, ⟨hfmt, rfl⟩ | ⟨hfmt, rfl⟩⟩ := decodeF_eq_ok_iff.mp h
    · exact rowMatches_matchScmp_iff.mpr ⟨hop, hbits, hfmt⟩
    · exact rowMatches_matchIdm_iff.mpr ⟨hop, hbits, hfmt⟩
  · rw [decode_of_opField_five hop] at h
    obtain ⟨hbits, ⟨hfmt, rfl⟩ | ⟨hfmt, rfl⟩⟩ := decodeF_eq_ok_iff.mp h
    · exact rowMatches_decodeScmp_iff.mpr ⟨hop, hbits, hfmt⟩
    · exact rowMatches_decodeIdm_iff.mpr ⟨hop, hbits, hfmt⟩
  · rw [decode_of_opField_other hop] at h
    cases h

/-- A word decodes to a command exactly when it matches the command's row and the operands stand at the
fields of the row (30_encoding.md R88). -/
theorem decode_eq_ok_iff {w : Word} {i : Instr} :
    decode w = .ok i ↔ rowMatches (rowIndex i) w ∧ i = rowInstr (rowIndex i) w := by
  constructor
  · intro h
    have hrow := rowMatches_of_decode h
    exact ⟨hrow, Except.ok.inj (h.symm.trans (decode_of_rowMatches hrow))⟩
  · rintro ⟨hrow, hi⟩
    exact (decode_of_rowMatches hrow).trans (congrArg _ hi.symm)

theorem exists_eq_error_iff {x : Except Reject Instr} : (∃ e, x = .error e) ↔ ¬ ∃ i, x = .ok i := by
  cases x <;> simp

/-- A word is rejected exactly when it matches no row (30_encoding.md R88, R90). -/
theorem exists_decode_eq_error_iff {w : Word} :
    (∃ e, decode w = .error e) ↔ ∀ k, ¬ rowMatches k w := by
  rw [exists_eq_error_iff, ← not_exists, not_iff_not]
  exact ⟨fun ⟨_, h⟩ => ⟨_, rowMatches_of_decode h⟩, fun ⟨_, h⟩ => ⟨_, decode_of_rowMatches h⟩⟩

/-- No two rows match one word: each would be the row of what the word decodes to (30_encoding.md R88). -/
theorem rowMatches_unique {j k : Fin 7} {w : Word} (hj : rowMatches j w) (hk : rowMatches k w) : j = k := by
  have h : rowInstr j w = rowInstr k w :=
    Except.ok.inj ((decode_of_rowMatches hj).symm.trans (decode_of_rowMatches hk))
  simpa using congrArg rowIndex h

/-- Settles O3, by `decode_eq_ok_iff` at each of the seven commands. -/
theorem opcodeMapIsExact : Obligations.OpcodeMapIsExact := by
  intro w
  refine ⟨fun off len => ?_, fun off n => ?_, fun pos n => ?_, ?_, ?_, ?_, ?_, exists_decode_eq_error_iff,
    fun _ _ => rowMatches_unique⟩ <;>
  · rw [decode_eq_ok_iff]
    simp [rowIndex, rowInstr]

/-! ### The illegal words -/

theorem extuWidthOk_eq_false_iff {n : BitVec 3} :
    extuWidthOk n = false ↔ n.toNat = 0 ∨ 5 ≤ n.toNat := by
  revert n; decide

theorem extbWidthOk_eq_false_iff {n : BitVec 6} :
    extbWidthOk n = false ↔ n.toNat = 0 ∨ 33 ≤ n.toNat := by
  revert n; decide

theorem two_le_toNat_iff {fmt : BitVec 4} : 2 ≤ fmt.toNat ↔ fmt ≠ 0 ∧ fmt ≠ 1 := by
  revert fmt; decide

/-- Format R rejects a set reserved bit (30_encoding.md R83, R90). -/
theorem decodeR_rejects_iff {w : Word} :
    (∃ e, decodeR w = .error e) ↔ w.extractLsb' 16 12 ≠ 0 := by
  simp [exists_eq_error_iff, decodeR_eq_ok_iff]

/-- Format U rejects a set reserved bit and a width that is not 1 to 4 (30_encoding.md R84, R90). -/
theorem decodeU_rejects_iff {w : Word} :
    (∃ e, decodeU w = .error e) ↔ w.extractLsb' 16 12 ≠ 0 ∨ w.extractLsb' 3 5 ≠ 0 ∨
      (w.extractLsb' 0 3).toNat = 0 ∨ 5 ≤ (w.extractLsb' 0 3).toNat := by
  rw [exists_eq_error_iff, ← extuWidthOk_eq_false_iff]
  simp [decodeU_eq_ok_iff, imp_iff_not_or]

/-- Format B rejects a set reserved bit and a width that is not 1 to 32 (30_encoding.md R85, R90). -/
theorem decodeB_rejects_iff {w : Word} :
    (∃ e, decodeB w = .error e) ↔ w.extractLsb' 20 8 ≠ 0 ∨ w.extractLsb' 6 2 ≠ 0 ∨
      (w.extractLsb' 0 6).toNat = 0 ∨ 33 ≤ (w.extractLsb' 0 6).toNat := by
  rw [exists_eq_error_iff, ← extbWidthOk_eq_false_iff]
  simp [decodeB_eq_ok_iff, imp_iff_not_or]

/-- Format F rejects a set reserved bit and a format that is not 0 or 1 (30_encoding.md R86, R90). -/
theorem decodeF_rejects_iff {scmp idm : Instr} {w : Word} :
    (∃ e, decodeF scmp idm w = .error e) ↔
      w.extractLsb' 4 24 ≠ 0 ∨ 2 ≤ (w.extractLsb' 0 4).toNat := by
  rw [exists_eq_error_iff, two_le_toNat_iff]
  simp [decodeF_eq_ok_iff, exists_or, imp_iff_not_or]

/-- The list of R90 has one bullet for each format, and one for every other `OP`. -/
theorem exists_decode_eq_error_iff_illegalListed {w : Word} :
    (∃ e, decode w = .error e) ↔ IllegalListed w := by
  have hopField : w.extractLsb' 28 4 = opField w := rfl
  simp only [IllegalListed, hopField]
  obtain hop | hop | hop | hop | hop | hop := opField_cases w
  · rw [decode_of_opField_one hop, decodeR_rejects_iff]
    simp [hop]
  · rw [decode_of_opField_two hop, decodeU_rejects_iff]
    simp [hop]
  · rw [decode_of_opField_three hop, decodeB_rejects_iff]
    simp [hop]
  · rw [decode_of_opField_four hop, decodeF_rejects_iff]
    simp [hop]
  · rw [decode_of_opField_five hop, decodeF_rejects_iff]
    simp [hop]
  · rw [decode_of_opField_other hop]
    exact iff_of_true ⟨_, rfl⟩ (.inl hop)

/-- An illegal word is latched and ends in `ILLEGAL_COMMAND`, which sets `ERR`; nothing else changes
(30_encoding.md R90). -/
theorem command_of_illegal {w : Word} {e : Reject} (h : decode w = .error e) (s : State) :
    command w s = .next { s with
      cmd := w
      status := withErr true (withOutcome 6 (withLastop (w.extractLsb' 28 4) s.status)) } := by
  rw [command_of_reject h]
  rfl

/-- Settles O4: the rows, the list of R90, and the effect of a rejected word. -/
theorem illegalWordChangesOnlyStatus : Obligations.IllegalWordChangesOnlyStatus := by
  intro w s
  refine ⟨exists_decode_eq_error_iff, exists_decode_eq_error_iff_illegalListed, fun hlisted => ?_⟩
  obtain ⟨e, he⟩ := exists_decode_eq_error_iff_illegalListed.mpr hlisted
  exact command_of_illegal he s

end Sys2Proof.Machine
end

section
/-! SUPPORT. Proofs of the statements about the `CRC` command (40_crc.md): what a word that matches a row
runs, and the command's two ends; the statement O9. -/

namespace Sys2Proof.Machine

open Sys2Proof

/-- A word that matches a row runs the row's command on the latched state (30_encoding.md R81, R88). -/
theorem command_of_rowMatches {k : Fin 7} {w : Word} (h : rowMatches k w) (s : State) :
    command w s = exec (rowInstr k w) (latch w s) :=
  command_of_decode (decode_of_rowMatches h) s

/-- The latched state, its `LASTOP` given by the word's `OP` (10_state.md R21, R26). -/
theorem latch_of_opField {w : Word} {op : BitVec 4} (h : opField w = op) (s : State) :
    latch w s = { s with cmd := w, status := withLastop op s.status } :=
  h ▸ rfl

/-- A range past the declared row ends in `RANGE_ERROR`, and `RESULT` is kept (40_crc.md R106). -/
theorem execCrc_of_past_row {off len : BitVec 8} {s : State}
    (h : availBytes s < off.toNat + len.toNat) :
    execCrc off len s = complete .rangeError s :=
  if_pos h

/-- A range in the declared row has its checksum put into `RESULT` (40_crc.md R106). -/
theorem execCrc_of_in_row {off len : BitVec 8} {s : State}
    (h : ¬ availBytes s < off.toNat + len.toNat) :
    execCrc off len s =
      complete .success
        (setResult
          (ofHalf (crcv (byteRange s.frame off.toNat (off.toNat + len.toNat))
            (lowHalf s.crcPoly) (lowHalf s.crcInit) (lowHalf s.crcXorout))) s) :=
  if_neg h

/-- Settles O9: the word by its row, the command by whether its range lies in the declared row. -/
theorem crcCommandResult : Obligations.CrcCommandResult := by
  refine ⟨fun w s hrow => ?_, fun off len s => ?_⟩
  · have hmatch : rowMatches 0 w := hrow
    obtain ⟨hop, -⟩ := rowMatches_crc_iff.mp hmatch
    rw [command_of_rowMatches hmatch, latch_of_opField hop]
    rfl
  · rw [exec_crc, ← availBytes_eq]
    split
    next hpast => exact execCrc_of_past_row hpast
    next hin => exact execCrc_of_in_row hin

end Sys2Proof.Machine
end

section
/-! SUPPORT. Proofs of the statements about the matcher (41_match.md): a match's outcome and what it leaves
of `STATUS`, the length check of all four commands; the statements O25, O23 and O24. -/

namespace Sys2Proof.Machine

open Sys2Proof

/-! ### The outcome of a match -/

/-- No result of the matcher is an error (41_match.md R121, R122). -/
@[simp] theorem MatchResult.isError_outcome (m : MatchResult) : m.outcome.isError = false := by
  cases m <;> rfl

/-- `LENGTH_MISMATCH` is the outcome of the failed length check alone. -/
theorem MatchResult.outcome_code_eq_two_iff {m : MatchResult} :
    m.outcome.code = 2 ↔ m = .lengthMismatch := by
  cases m <;> decide

/-- A match's outcome in the order of the two checks (41_match.md R120). -/
theorem matchFrame_outcome_code (f : FrameSpec) (s : State) :
    (matchFrame f s).outcome.code =
      if (lowHalf s.bitlen).toNat ≠ 8 * f.frameBytes then 2
      else if byteRange s.frame 0 f.preamble.length = f.preamble then 1 else 3 := by
  cases h : matchFrame f s with
  | lengthMismatch => exact (if_pos (matchFrame_lengthMismatch.mp h)).symm
  | matched =>
    obtain ⟨hlength, hpreamble⟩ := matchFrame_matched.mp h
    rw [if_neg (not_not.mpr hlength), if_pos hpreamble]
    rfl
  | preambleMismatch =>
    obtain ⟨hlength, hpreamble⟩ := matchFrame_preambleMismatch.mp h
    rw [if_neg (not_not.mpr hlength), if_neg hpreamble]
    rfl

/-! ### The length check -/

/-- What R121 says of a command for rows of `n` bits that takes `s` to `t`: `LENGTH_MISMATCH` exactly when
`BITLEN` is not `n`, and `ERR` as it was. -/
def LengthChecked (n : Nat) (s t : State) : Prop :=
  statusErr t.status = statusErr s.status ∧
    (statusOutcome t.status = 2 ↔ (s.bitlen.extractLsb' 0 16).toNat ≠ n)

/-- Ending in the matcher's outcome, with `ERR` untouched before, is what the length check asks. -/
theorem lengthChecked_finish_matchFrame {f : FrameSpec} {s u : State}
    (herr : statusErr u.status = statusErr s.status) :
    LengthChecked (8 * f.frameBytes) s (finish (matchFrame f s).outcome u) := by
  refine ⟨by simp [herr], ?_⟩
  rw [finish_status, statusOutcome_finishStatus, MatchResult.outcome_code_eq_two_iff]
  exact matchFrame_lengthMismatch

/-- A row that matches has the format's length, so any other outcome that is no error will do. -/
theorem lengthChecked_finish_of_matched {f : FrameSpec} {s u : State} {o : OutcomeCode}
    (hm : matchFrame f s = .matched) (herr : statusErr u.status = statusErr s.status)
    (ho : o.isError = false) (hcode : o.code ≠ 2) :
    LengthChecked (8 * f.frameBytes) s (finish o u) := by
  obtain ⟨hlength, -⟩ := matchFrame_matched.mp hm
  refine ⟨by simp [ho, herr], ?_⟩
  rw [finish_status, statusOutcome_finishStatus]
  exact iff_of_false hcode (not_not.mpr hlength)

/-- A decode checks the length as a match does: `LENGTH_MISMATCH` comes from `MATCHING` alone
(44_decode.md R181). -/
theorem lengthChecked_decodeFrame {f : FrameSpec} {en : Bool} {ex : Memory → List Word} {s t : State}
    (h : decodeFrame f en ex s = .next t) : LengthChecked (8 * f.frameBytes) s t := by
  obtain ⟨-, rfl⟩ | ⟨hm, -, -, rfl⟩ | ⟨hm, -, rfl⟩ := decodeFrame_cases h
  · exact lengthChecked_finish_matchFrame (by simp)
  · exact lengthChecked_finish_of_matched hm (by simp [validated]) rfl (by decide)
  · exact lengthChecked_finish_of_matched hm (by simp [validated]) rfl (by decide)

theorem exists_lengthChecked_match (f : FrameSpec) (s : State) :
    ∃ t, complete (matchFrame f s).outcome s = .next t ∧ LengthChecked (8 * f.frameBytes) s t :=
  ⟨_, rfl, lengthChecked_finish_matchFrame rfl⟩

theorem exists_lengthChecked_decode (f : FrameSpec) (en : Bool) (ex : Memory → List Word) (s : State) :
    ∃ t, decodeFrame f en ex s = .next t ∧ LengthChecked (8 * f.frameBytes) s t :=
  have ⟨_, _, h⟩ := decodeFrame_completes f en ex s
  ⟨_, h, lengthChecked_decodeFrame h⟩

/-- Settles O25: a match is its length check and preamble check, and a decode begins with both. -/
theorem lengthCheckIgnoresContent : Obligations.LengthCheckIgnoresContent := by
  rintro i n s (⟨rfl | rfl, rfl⟩ | ⟨rfl | rfl, rfl⟩)
  · exact exists_lengthChecked_match scmpSpec s
  · exact exists_lengthChecked_decode scmpSpec _ _ s
  · exact exists_lengthChecked_match (idmSpec s.params) s
  · exact exists_lengthChecked_decode (idmSpec s.params) _ _ s

/-! ### The two commands -/

/-- A match writes `OUTCOME` and nothing else (41_match.md R124, R125). -/
theorem complete_matchFrame (f : FrameSpec) (s : State) :
    complete (matchFrame f s).outcome s = .next { s with
      status := withOutcome (
        if (lowHalf s.bitlen).toNat ≠ 8 * f.frameBytes then 2
        else if byteRange s.frame 0 f.preamble.length = f.preamble then 1 else 3) s.status } := by
  rw [← matchFrame_outcome_code]
  simp [complete, finish, finishStatus]

/-- The SCM+ preamble, byte by byte (41_match.md R122, R123). -/
theorem byteRange_eq_scmp_preamble_iff {m : Memory} :
    byteRange m 0 scmpSpec.preamble.length = scmpSpec.preamble ↔ m.read 0 = 0x16 ∧ m.read 1 = 0xA3 := by
  simp [byteRange, scmpSpec, List.range_succ]

/-- The IDM preamble, byte by byte (41_match.md R122, R123). -/
theorem byteRange_eq_idm_preamble_iff {p : Params} {m : Memory} :
    byteRange m 0 (idmSpec p).preamble.length = (idmSpec p).preamble ↔
      m.read 0 = 0x55 ∧ m.read 1 = 0x55 ∧ m.read 2 = 0x16 ∧ m.read 3 = 0xA3 ∧ m.read 4 = 0x1C ∧
        m.read 5 = 0x5C ∧ m.read 6 = 0xC6 := by
  simp [byteRange, idmSpec, List.range_succ]

/-- A word that matches a row runs the row's command with the word in `CMD` and its `OP` in `LASTOP`
(30_encoding.md R81, R88). -/
theorem command_of_rowMatches_of_opField {k : Fin 7} {w : Word} {op : BitVec 4} (h : rowMatches k w)
    (hop : opField w = op) (s : State) :
    command w s = exec (rowInstr k w) { s with cmd := w, status := withLastop op s.status } := by
  rw [command_of_rowMatches h, latch_of_opField hop]

/-- Settles O23: the word by its row, the command by the two checks for SCM+. -/
theorem matchScmpResult : Obligations.MatchScmpResult := by
  refine ⟨command_of_rowMatches_of_opField (k := 3) rfl rfl, fun s => ?_⟩
  rw [exec_matchScmp, execMatchScmp, complete_matchFrame]
  simp only [byteRange_eq_scmp_preamble_iff]
  rfl

/-- Settles O24: the word by its row, the command by the two checks for IDM. -/
theorem matchIdmResult : Obligations.MatchIdmResult := by
  refine ⟨command_of_rowMatches_of_opField (k := 4) rfl rfl, fun s => ?_⟩
  rw [exec_matchIdm, execMatchIdm, complete_matchFrame]
  simp only [byteRange_eq_idm_preamble_iff]
  rfl

end Sys2Proof.Machine
end

section
/-! SUPPORT. Proofs of the statements about extraction (42_extract.md): one digit of a
most-significant-first sum, the bytes and bits of a field, and the two commands; the statements O14, O15,
O18 and O19. -/

namespace Sys2Proof.Machine

open Sys2Proof

/-! ### Digits, the first the most significant -/

section digits

/-- A reader one digit wider appends the digit `d w`, in base `2 ^ k`, below what it has read, so that the
first digit is the most significant: the fields of R140 (`k = 8`) and R141 (`k = 1`) as they widen. -/
structure MsbFirst (k : Nat) (d f : Nat → Nat) : Prop where
  digit_lt : ∀ j, d j < 2 ^ k
  succ : ∀ w, f (w + 1) = 2 ^ k * f w + d w

variable {k : Nat} {d f : Nat → Nat}

/-- Reading one digit more shifts the number up by one digit. -/
theorem MsbFirst.succ_shiftRight (h : MsbFirst k d f) (w : Nat) : f (w + 1) >>> k = f w := by
  rw [h.succ, Nat.shiftRight_eq_div_pow, Nat.mul_add_div (Nat.two_pow_pos k),
    Nat.div_eq_of_lt (h.digit_lt w), Nat.add_zero]

/-- The top `v` digits are the number that the first `v` digits make. -/
theorem MsbFirst.add_shiftRight (h : MsbFirst k d f) (v n : Nat) : f (v + n) >>> (k * n) = f v := by
  induction n with
  | zero => simp
  | succ n ih => rw [Nat.mul_succ, Nat.add_comm (k * n), Nat.shiftRight_add, ← Nat.add_assoc,
      h.succ_shiftRight, ih]

/-- Digit `j` from the top is `d j`: it is the last of the first `j + 1` digits. -/
theorem MsbFirst.shiftRight_mod (h : MsbFirst k d f) {j w : Nat} (hj : j < w) :
    f w >>> (k * (w - 1 - j)) % 2 ^ k = d j := by
  obtain ⟨n, rfl⟩ := Nat.exists_eq_add_of_le (Nat.succ_le_of_lt hj)
  have hbelow : j + 1 + n - 1 - j = n := by omega
  rw [hbelow, h.add_shiftRight, h.succ, Nat.mul_add_mod, Nat.mod_eq_of_lt (h.digit_lt j)]

end digits

/-! ### Byte fields -/

theorem msbFirst_be (m : Memory) (off : Nat) :
    MsbFirst 8 (fun j => (m.read (off + j)).toNat) (be m off) where
  digit_lt j := (m.read (off + j)).isLt
  succ := be_succ m off

/-- Settles O14: the bound is `be_lt`, a byte is a digit in base 256. -/
theorem byteFieldIsBigEndian : Obligations.ByteFieldIsBigEndian := by
  intro m off w _ _
  refine ⟨?_, fun j hj => (msbFirst_be m off).shiftRight_mod hj⟩
  rw [pow_mul]
  exact be_lt m off w

/-! ### Bit fields -/

/-- A stream bit is a bit of its byte, counted from the byte's most significant bit (00_scope.md R9). -/
theorem decide_streamBit_eq_one (m : Memory) (i : Nat) :
    decide (streamBit m i = 1) = (m.read (i / 8)).getLsbD (7 - i % 8) := by
  rw [streamBit, Nat.and_one_is_mod, Nat.shiftRight_eq_div_pow, ← Nat.testBit_eq_decide_div_mod_eq,
    BitVec.testBit_toNat]

theorem msbFirst_bits (m : Memory) (pos : Nat) :
    MsbFirst 1 (fun j => streamBit m (pos + j)) (bits m pos) where
  digit_lt j := streamBit_lt m (pos + j)
  succ := bits_succ m pos

/-- Settles O15: the bound is `bits_lt`, a stream bit is a digit in base 2. -/
theorem bitFieldIsMsbFirst : Obligations.BitFieldIsMsbFirst := by
  intro m pos w _ _
  refine ⟨bits_lt m pos w, fun j hj => ?_⟩
  have hdigit : bits m pos w / 2 ^ (w - 1 - j) % 2 = streamBit m (pos + j) := by
    rw [← Nat.shiftRight_eq_div_pow]
    simpa only [one_mul, pow_one] using (msbFirst_bits m pos).shiftRight_mod hj
  rw [Nat.testBit_eq_decide_div_mod_eq, hdigit, decide_streamBit_eq_one]

/-! ### The two commands -/

/-- The widths of R84, as `EXTU` checks them. -/
theorem extuWidthOk_iff {n : BitVec 3} : extuWidthOk n = true ↔ 1 ≤ n.toNat ∧ n.toNat ≤ 4 := by
  simp [extuWidthOk]

/-- The widths of R85, as `EXTB` checks them. -/
theorem extbWidthOk_iff {n : BitVec 6} : extbWidthOk n = true ↔ 1 ≤ n.toNat ∧ n.toNat ≤ 32 := by
  simp [extbWidthOk]

/-- A legal `EXTU` ends by whether its bytes lie in the declared row (42_extract.md R143, R144). -/
theorem execExtu_of_widthOk {off : BitVec 8} {n : BitVec 3} (hn : extuWidthOk n = true) (s : State) :
    execExtu off n s =
      if availBytes s < off.toNat + n.toNat then complete .rangeError s
      else complete .success (setResult (word (be s.frame off.toNat n.toNat)) s) := by
  rw [execExtu, hn]
  rfl

/-- A legal `EXTB` ends by whether its bits lie in the declared row (42_extract.md R143, R145). -/
theorem execExtb_of_widthOk {pos : BitVec 12} {n : BitVec 6} (hn : extbWidthOk n = true) (s : State) :
    execExtb pos n s =
      if 8 * availBytes s < pos.toNat + n.toNat then complete .rangeError s
      else complete .success (setResult (word (bits s.frame pos.toNat n.toNat)) s) := by
  rw [execExtb, hn]
  rfl

/-- An operand range past the declared row, `past`, ends in `RANGE_ERROR` with `RESULT` kept, any other in
`SUCCESS` with `v` in `RESULT` (42_extract.md R143). -/
theorem complete_range_checked (past : Prop) [Decidable past] (v : Word) (s : State) :
    (if past then complete .rangeError s else complete .success (setResult v s)) =
      .next (if past then { s with status := withErr true (withOutcome 5 s.status) }
        else { s with result := v, status := withOutcome 1 s.status }) := by
  split <;> rfl

/-- Settles O18: the word by its row, the command by whether its bytes lie in the declared row. -/
theorem extuCommandResult : Obligations.ExtuCommandResult := by
  refine ⟨fun w s hrow hlo hhi => ?_, fun off n s hlo hhi => ?_⟩
  · have hmatch : rowMatches 1 w := ⟨hrow, hlo, hhi⟩
    obtain ⟨hop, -⟩ := rowMatches_extu_iff.mp hmatch
    exact command_of_rowMatches_of_opField hmatch hop s
  · rw [exec_extu, execExtu_of_widthOk (extuWidthOk_iff.mpr ⟨hlo, hhi⟩), ← availBytes_eq]
    exact complete_range_checked _ _ s

/-- Settles O19: the word by its row, the command by whether its bits lie in the declared row. -/
theorem extbCommandResult : Obligations.ExtbCommandResult := by
  refine ⟨fun w s hrow hlo hhi => ?_, fun pos n s hlo hhi => ?_⟩
  · have hmatch : rowMatches 2 w := ⟨hrow, hlo, hhi⟩
    obtain ⟨hop, -⟩ := rowMatches_extb_iff.mp hmatch
    exact command_of_rowMatches_of_opField hmatch hop s
  · rw [exec_extb, execExtb_of_widthOk (extbWidthOk_iff.mpr ⟨hlo, hhi⟩), ← availBytes_eq]
    exact complete_range_checked _ _ s

end Sys2Proof.Machine
end

section
/-! SUPPORT. Proofs of the statements about the record view (43_record.md): when there is a record, the
characters of the hex dump, and what a successful decode leaves for the record to show; the statements O53,
O56 and O55. -/

namespace Sys2Proof.Machine

open Sys2Proof

/-! ### When there is a record -/

theorem record_eq_scmpRecord {s : State} (hop : statusLastop s.status = 5)
    (hout : statusOutcome s.status = 1) (hfmt : s.cmd.extractLsb' 0 4 = 0) :
    record s = some (scmpRecord s) := by
  rw [record, if_pos ⟨hop, hout⟩, hfmt]
  rfl

theorem record_eq_idmRecord {s : State} (hop : statusLastop s.status = 5)
    (hout : statusOutcome s.status = 1) (hfmt : s.cmd.extractLsb' 0 4 = 1) :
    record s = some (idmRecord s) := by
  rw [record, if_pos ⟨hop, hout⟩, hfmt]
  rfl

/-- Whatever `CMD` holds, there is no record unless the last command is a successful decode. -/
theorem decode_succeeded_of_record {s : State} (h : (record s).isSome = true) :
    statusLastop s.status = 5 ∧ statusOutcome s.status = 1 := by
  by_contra hnot
  have hnone : record s = none := if_neg hnot
  simp [hnone] at h

/-- The record after a successful decode: the invariant leaves `CMD` the two `DECODE` words alone
(30_encoding.md R88), so the nibble that names no format (log 18) does not occur. -/
theorem State.Inv.record_cases {s : State} (hinv : s.Inv) (hop : statusLastop s.status = 5)
    (hout : statusOutcome s.status = 1) :
    s.cmd.extractLsb' 0 4 = 0 ∧ record s = some (scmpRecord s) ∨
      s.cmd.extractLsb' 0 4 = 1 ∧ record s = some (idmRecord s) := by
  obtain hcmd | hcmd := hinv.success_decode hop hout
  · have hfmt : s.cmd.extractLsb' 0 4 = 0 := by rw [hcmd]; rfl
    exact .inl ⟨hfmt, record_eq_scmpRecord hop hout hfmt⟩
  · have hfmt : s.cmd.extractLsb' 0 4 = 1 := by rw [hcmd]; rfl
    exact .inr ⟨hfmt, record_eq_idmRecord hop hout hfmt⟩

/-- Settles O53, by `State.Inv.record_cases`. -/
theorem recordExistsAfterSuccessfulDecode : Obligations.RecordExistsAfterSuccessfulDecode := by
  intro s hinv
  refine ⟨⟨decode_succeeded_of_record, fun ⟨hop, hout⟩ => ?_⟩, fun hsome => ?_⟩
  · obtain ⟨-, hrecord⟩ | ⟨-, hrecord⟩ := hinv.record_cases hop hout
    · rw [hrecord]; rfl
    · rw [hrecord]; rfl
  · obtain ⟨hop, hout⟩ := decode_succeeded_of_record hsome
    exact hinv.record_cases hop hout

/-! ### The hex dump -/

/-- When every entry of a list becomes two, the entries that came of entry `i` stand at `2i` and
`2i + 1`. -/
theorem getElem?_flatMap_pair {α β : Type} (f g : α → β) (l : List α) (i : Nat) :
    (l.flatMap fun a => [f a, g a])[2 * i]? = l[i]?.map f ∧
      (l.flatMap fun a => [f a, g a])[2 * i + 1]? = l[i]?.map g := by
  induction l generalizing i with
  | nil => simp
  | cons a l ih =>
    cases i with
    | zero => simp
    | succ i => simpa [Nat.mul_succ] using ih i

/-- The sixteen lower-case digits (43_record.md R163). -/
theorem getElem?_hexDigits {n : Nat} (h : n < 16) :
    "0123456789abcdef".toList[n]? = some (hexChar n) := by
  have hall : ∀ n < 16, "0123456789abcdef".toList[n]? = some (hexChar n) := by decide
  exact hall n h

theorem hexdumpChars_length (m : Memory) (n : Nat) : (hexdumpChars m n).length = 2 * n := by
  simp [hexdumpChars, Nat.mul_comm]

theorem byteRange_getElem?_zero (m : Memory) {i n : Nat} (h : i < n) :
    (byteRange m 0 n)[i]? = some (m.read i) := by
  simp [h]

/-- The two digits of byte `i` (43_record.md R163). -/
theorem hexdumpChars_getElem? (m : Memory) {i n : Nat} (h : i < n) :
    (hexdumpChars m n)[2 * i]? = some (hexChar ((m.read i).toNat / 16)) ∧
      (hexdumpChars m n)[2 * i + 1]? = some (hexChar ((m.read i).toNat % 16)) := by
  obtain ⟨hhigh, hlow⟩ := getElem?_flatMap_pair (fun b : Byte => hexChar (b.toNat / 16))
    (fun b => hexChar (b.toNat % 16)) (byteRange m 0 n) i
  rw [byteRange_getElem?_zero m h] at hhigh hlow
  exact ⟨hhigh, hlow⟩

/-- Settles O56: a nibble is below 16, so it has a digit. -/
theorem hexdumpSpellsTheFrame : Obligations.HexdumpSpellsTheFrame := by
  refine ⟨fun m n => ⟨rfl, hexdumpChars_length m n, fun i hi => ?_⟩, fun s => ?_⟩
  · have hbyte : (m.read i).toNat < 256 := (m.read i).isLt
    have hnibble : (m.read i).toNat / 16 < 16 := by omega
    rw [getElem?_hexDigits hnibble, getElem?_hexDigits (Nat.mod_lt _ (by decide))]
    exact hexdumpChars_getElem? m hi
  · simp [scmpRecord, idmRecord]

/-! ### What a successful decode leaves for the record -/

/-- A decode that ends in `SUCCESS` has gone through `MATCHING` and `VALIDATING` to the extraction
(44_decode.md R184). -/
theorem decodeFrame_succeeded {f : FrameSpec} {en : Bool} {ex : Memory → List Word} {s t : State}
    (h : decodeFrame f en ex s = .next t) (hout : statusOutcome t.status = 1) :
    (en = true → checksumsAgree f s.frame = true) ∧
      t = finish .success (setMic en (setFields (ex s.frame) (validated f s))) := by
  obtain ⟨hm, rfl⟩ | ⟨-, -, -, rfl⟩ | ⟨-, hagree, ht⟩ := decodeFrame_cases h
  · rw [finish_status, statusOutcome_finishStatus] at hout
    exact absurd hout (MatchResult.outcome_code_ne_one hm)
  · simp [OutcomeCode.code] at hout
  · exact ⟨hagree, ht⟩

/-- A record entry shows what the field file holds (43_record.md R160). -/
theorem fieldValue_of_fields_eq {s : State} {l : List Word} (h : s.fields = fieldFile l) {k : Nat}
    (hk : k < 38) : fieldValue s k = .number (l.getD k 0) := by
  rw [fieldValue, h, ← fieldFile_getElem l k hk]
  simp [List.getD_eq_getElem?_getD, hk]

/-- `idm_type` is the low nibble of byte 8 (42_extract.md R147). -/
theorem be_one_and_lowNibble (m : Memory) (off : Nat) :
    be m off 1 &&& 0x0F = (m.read off).toNat % 16 := by
  rw [be_succ, be_zero]
  simpa using Nat.and_two_pow_sub_one_eq_mod (m.read off).toNat 4

/-- Settles O55: the run of the dispatcher that succeeded, then the entries of its field file. -/
theorem idmRecordContents : Obligations.IdmRecordContents := by
  intro s t hc hout
  have hdecode : decode 0x50000001 = .ok .decodeIdm := decode_of_rowMatches (k := 6) rfl
  have hrun : execDecodeIdm (latch 0x50000001 s) = .next t := (command_of_decode hdecode s).symm.trans hc
  obtain ⟨-, ht⟩ := decodeFrame_succeeded hrun hout
  obtain ⟨hcmd, hop⟩ := (CommandEffect.of_command hc).latched
  have hfields : t.fields = fieldFile (idmFields s.params s.frame) := by simp [ht]
  have hframe : t.frame = s.frame := by simp [ht, validated]
  have hmic : statusMic t.status = s.cfg.getLsbD 1 := by simp [ht, idmCrcEn]
  have hfmt : t.cmd.extractLsb' 0 4 = 1 := by rw [hcmd]; rfl
  rw [record_eq_idmRecord hop hout hfmt, idmRecord, micEntry, hmic, hframe]
  simp [fieldValue_of_fields_eq hfields, idmFields, be_one_and_lowNibble]

end Sys2Proof.Machine
end

section
/-! SUPPORT. Proofs of the statements about the two decoders (44_decode.md): what a decode leaves in the
diagnostic registers and when it ends in `INTEGRITY_FAILURE`, what it reads and what it keeps, and its
four outcomes as whole next states; the statements O28, O30, O26 and O27. -/

namespace Sys2Proof.Machine

open Sys2Proof

/-! ### The checksums of a frame -/

/-- The checksums agree when every computed one is the received one (44_decode.md R192, R203). -/
theorem checksumsAgree_iff {f : FrameSpec} {m : Memory} :
    checksumsAgree f m = true ↔
      computedCrc m f.crc = receivedCrc m f.crc ∧ snComputed f m = snReceived f m := by
  simp [checksumsAgree]

/-- SCM+ has one checksum (44_decode.md R191, R192). -/
theorem checksumsAgree_scmp_iff {m : Memory} :
    checksumsAgree scmpSpec m = true ↔ computedCrc m scmpSpec.crc = receivedCrc m scmpSpec.crc := by
  simp [checksumsAgree_iff, snComputed, snReceived, scmpSpec]

/-- SCM+'s checksum, over bytes 2 to 13 (44_decode.md R191). -/
theorem computedCrc_scmp (m : Memory) :
    computedCrc m scmpSpec.crc = crcv (byteRange m 2 14) 0x1021 0xFFFF 0xFFFF := by
  simp [computedCrc, scmpSpec]

/-- IDM's packet CRC, over the range that the parameters give (44_decode.md R200). -/
theorem computedCrc_idm (p : Params) (m : Memory) :
    computedCrc m (idmSpec p).crc =
      crcv (byteRange m p.pktCrcLo p.pktCrcHi) 0x1021 p.pktInit p.pktXorout := by
  simp [computedCrc, idmSpec]

/-- IDM's serial-number CRC, over the id and the transmit time offset (44_decode.md R201, R202). -/
theorem snComputed_idm (p : Params) (m : Memory) :
    snComputed (idmSpec p) m =
      crcv (byteRange m 9 13 ++ byteRange m p.ttoOffset (p.ttoOffset + 2)) 0x1021 p.snInit
        p.snXorout := by
  simp [snComputed, computedCrc, idmSpec]

/-- A two-byte field fits in a half word, so a register holds it whole (10_state.md R32). -/
theorem ofHalf_be_two (m : Memory) (off : Nat) :
    ofHalf (BitVec.ofNat 16 (be m off 2)) = word (be m off 2) := by
  have hlt : be m off 2 < 2 ^ 16 := be_lt m off 2
  exact BitVec.setWidth_ofNat_of_le_of_lt (by decide) hlt

/-! ### VALIDATING -/

/-- What `VALIDATING` leaves in the diagnostic registers of `t` for the frame in `m` (10_state.md R32). -/
structure DiagnosticsOf (f : FrameSpec) (m : Memory) (t : State) : Prop where
  crcRx : t.crcRx = ofHalf (receivedCrc m f.crc)
  crcCalc : t.crcCalc = ofHalf (computedCrc m f.crc)
  sncrcRx : t.sncrcRx = ofHalf (snReceived f m)
  sncrcCalc : t.sncrcCalc = ofHalf (snComputed f m)

/-- The diagnostic registers show whether the checksums agree (10_state.md R32). -/
theorem DiagnosticsOf.checksumsAgree_iff {f : FrameSpec} {m : Memory} {t : State}
    (h : DiagnosticsOf f m t) :
    checksumsAgree f m = true ↔ t.crcCalc = t.crcRx ∧ t.sncrcCalc = t.sncrcRx := by
  have hinj {a b : Half} : ofHalf a = ofHalf b ↔ a = b := ⟨ofHalf_injective, congrArg ofHalf⟩
  rw [h.crcRx, h.crcCalc, h.sncrcRx, h.sncrcCalc, hinj, hinj, Machine.checksumsAgree_iff]

/-- A decode of a matching row computes every checksum, whatever the enable bit (44_decode.md R203). -/
theorem diagnosticsOf_decodeFrame {f : FrameSpec} {en : Bool} {ex : Memory → List Word} {s t : State}
    (hm : matchFrame f s = .matched) (h : decodeFrame f en ex s = .next t) :
    DiagnosticsOf f s.frame t := by
  obtain ⟨hn, -⟩ | ⟨-, -, -, rfl⟩ | ⟨-, -, rfl⟩ := decodeFrame_cases h
  · exact absurd hm hn
  · exact ⟨rfl, rfl, rfl, rfl⟩
  · exact ⟨rfl, rfl, rfl, rfl⟩

/-- Under enforcement the checksums alone decide between `SUCCESS` and `INTEGRITY_FAILURE`
(44_decode.md R192, R203). -/
theorem statusOutcome_of_enforced {f : FrameSpec} {ex : Memory → List Word} {s t : State}
    (hm : matchFrame f s = .matched) (h : decodeFrame f true ex s = .next t) :
    statusOutcome t.status = if checksumsAgree f s.frame then 1 else 4 := by
  obtain ⟨hn, -⟩ | ⟨-, -, hagree, rfl⟩ | ⟨-, hagree, rfl⟩ := decodeFrame_cases h
  · exact absurd hm hn
  · simp [hagree, OutcomeCode.code]
  · simp [hagree rfl, OutcomeCode.code]

/-- A `MATCH` command that ends in `SUCCESS` has found the row to match (41_match.md R120). -/
theorem matchFrame_of_complete_success {f : FrameSpec} {s t : State}
    (h : complete (matchFrame f s).outcome s = .next t) (hout : statusOutcome t.status = 1) :
    matchFrame f s = .matched := by
  by_contra hm
  rw [complete_eq_next.mp h, finish_status, statusOutcome_finishStatus] at hout
  exact MatchResult.outcome_code_ne_one hm hout

/-- Settles O28: a matching row has its diagnostics written, and they show whether the checksums agree. -/
theorem idmNeedsBothCrcs : Obligations.IdmNeedsBothCrcs := by
  rintro s ⟨u, hu, hone⟩
  have hm : matchFrame (idmSpec s.params) s = .matched := matchFrame_of_complete_success hu hone
  obtain ⟨o, v, h⟩ := decodeFrame_completes (idmSpec s.params) (idmCrcEn s.cfg) (idmFields s.params) s
  have hd := diagnosticsOf_decodeFrame hm h
  refine ⟨_, h, fun (hen : idmCrcEn s.cfg = true) => ?_, ?_, ?_, ?_, ?_⟩
  · rw [hen] at h
    rw [statusOutcome_of_enforced hm h, ne_eq, ne_eq, ← not_and_or, ← hd.checksumsAgree_iff]
    cases checksumsAgree (idmSpec s.params) s.frame <;> decide
  · exact hd.crcRx.trans (ofHalf_be_two s.frame 90)
  · exact hd.sncrcRx.trans (ofHalf_be_two s.frame 88)
  · exact hd.crcCalc.trans (congrArg ofHalf (computedCrc_idm s.params s.frame))
  · exact hd.sncrcCalc.trans (congrArg ofHalf (snComputed_idm s.params s.frame))

/-! ### What a decode reads -/

theorem AgreeBelow.byteRange_eq {n a b : Nat} {m m' : Memory} (h : AgreeBelow n m m') (hb : b ≤ n) :
    byteRange m a b = byteRange m' a b :=
  byteRange_congr fun i _ hi => h i (hi.trans_le hb)

theorem AgreeBelow.be_eq {n off w : Nat} {m m' : Memory} (h : AgreeBelow n m m') (hw : off + w ≤ n) :
    be m off w = be m' off w :=
  be_congr fun i _ hi => h i (hi.trans_le hw)

theorem AgreeBelow.bits_eq {n pos w : Nat} {m m' : Memory} (h : AgreeBelow n m m')
    (hw : pos + w ≤ 8 * n) : bits m pos w = bits m' pos w :=
  bits_congr fun i _ hi => h i (by omega)

theorem crcSpecOk_iff {n : Nat} {c : CrcSpec} :
    crcSpecOk n c = true ↔ (∀ r ∈ c.ranges, r.1 ≤ r.2 ∧ r.2 ≤ n) ∧ c.fieldOff + 2 ≤ n := by
  simp [crcSpecOk]

/-- A CRC whose ranges lie in the frame is computed from the frame (10_state.md R42). -/
theorem AgreeBelow.computedCrc_eq {n : Nat} {c : CrcSpec} {m m' : Memory} (h : AgreeBelow n m m')
    (hc : crcSpecOk n c = true) : computedCrc m c = computedCrc m' c := by
  obtain ⟨hranges, -⟩ := crcSpecOk_iff.mp hc
  have hbytes : (c.ranges.flatMap fun r => byteRange m r.1 r.2) =
      c.ranges.flatMap fun r => byteRange m' r.1 r.2 :=
    List.flatMap_congr fun r hr => h.byteRange_eq (hranges r hr).2
  rw [computedCrc, computedCrc, hbytes]

/-- A CRC whose field lies in the frame is received from the frame (10_state.md R42). -/
theorem AgreeBelow.receivedCrc_eq {n : Nat} {c : CrcSpec} {m m' : Memory} (h : AgreeBelow n m m')
    (hc : crcSpecOk n c = true) : receivedCrc m c = receivedCrc m' c := by
  obtain ⟨-, hfield⟩ := crcSpecOk_iff.mp hc
  rw [receivedCrc, receivedCrc, h.be_eq hfield]

/-- The serial-number CRC, where the format has one, is computed and received from the frame. -/
theorem AgreeBelow.snCrc_eq {n : Nat} {f : FrameSpec} {m m' : Memory} (h : AgreeBelow n m m')
    (hf : f.snCrc.toList.all (crcSpecOk n) = true) :
    snComputed f m = snComputed f m' ∧ snReceived f m = snReceived f m' := by
  unfold snComputed snReceived
  cases hc : f.snCrc with
  | none => exact ⟨rfl, rfl⟩
  | some c =>
    have hok : crcSpecOk n c = true := by simpa [hc] using hf
    exact ⟨h.computedCrc_eq hok, h.receivedCrc_eq hok⟩

/-- All that the dispatcher itself reads of a memory for a format: the preamble and the checksums. -/
structure SameFrame (f : FrameSpec) (m m' : Memory) : Prop where
  preamble : byteRange m 0 f.preamble.length = byteRange m' 0 f.preamble.length
  computed : computedCrc m f.crc = computedCrc m' f.crc
  received : receivedCrc m f.crc = receivedCrc m' f.crc
  snComputed : snComputed f m = snComputed f m'
  snReceived : snReceived f m = snReceived f m'

/-- A well-formed format's preamble, CRC ranges and CRC fields lie in its frame (10_state.md R42). -/
theorem AgreeBelow.sameFrame {f : FrameSpec} {m m' : Memory} (h : AgreeBelow f.frameBytes m m')
    (hf : frameSpecOk f = true) : SameFrame f m m' := by
  simp only [frameSpecOk, Bool.and_eq_true, decide_eq_true_eq] at hf
  obtain ⟨⟨⟨⟨-, hpreamble⟩, hcrc⟩, hsn⟩, -⟩ := hf
  obtain ⟨hcomputed, hreceived⟩ := h.snCrc_eq hsn
  exact ⟨h.byteRange_eq hpreamble, h.computedCrc_eq hcrc, h.receivedCrc_eq hcrc, hcomputed, hreceived⟩

theorem SameFrame.checksumsAgree_eq {f : FrameSpec} {m m' : Memory} (h : SameFrame f m m') :
    checksumsAgree f m = checksumsAgree f m' := by
  rw [checksumsAgree, checksumsAgree, h.computed, h.received, h.snComputed, h.snReceived]

theorem SameFrame.validated {f : FrameSpec} {s s' : State} (h : SameFrame f s.frame s'.frame)
    (hstatus : s.status = s'.status) : SameDecode (validated f s) (validated f s') := by
  simp [SameDecode, Machine.validated, hstatus, h.computed, h.received, h.snComputed, h.snReceived]

theorem sameDecode_decodePrologue {s s' : State} (hstatus : s.status = s'.status) :
    SameDecode (decodePrologue s) (decodePrologue s') := by
  simp [SameDecode, hstatus]

theorem SameDecode.finish {t t' : State} (h : SameDecode t t') (o : OutcomeCode) :
    SameDecode (finish o t) (finish o t') := by
  obtain ⟨hstatus, hrest⟩ := h
  exact ⟨congrArg (finishStatus o) hstatus, hrest⟩

theorem SameDecode.extracted {t t' : State} (h : SameDecode t t') (en : Bool) (l : List Word) :
    SameDecode (setMic en (setFields l t)) (setMic en (setFields l t')) := by
  obtain ⟨hstatus, -, hdiagnostics⟩ := h
  exact ⟨congrArg (withMic en) hstatus, rfl, hdiagnostics⟩

/-- The dispatcher reads `BITLEN`, `STATUS`, the frame and the extracted fields (44_decode.md R182). -/
theorem decodeFrame_sameDecode {f : FrameSpec} {en : Bool} {ex : Memory → List Word} {s s' : State}
    (hbitlen : s.bitlen = s'.bitlen) (hstatus : s.status = s'.status)
    (hframe : SameFrame f s.frame s'.frame) (hex : ex s.frame = ex s'.frame) :
    ∃ t t', decodeFrame f en ex s = .next t ∧ decodeFrame f en ex s' = .next t' ∧ SameDecode t t' := by
  have hmatch : matchFrame f s = matchFrame f s' := matchFrame_congr hbitlen hframe.preamble
  have hvalid := hframe.validated hstatus
  by_cases hm : matchFrame f s = .matched
  · rw [decodeFrame_matched f en ex s hm, decodeFrame_matched f en ex s' (hmatch ▸ hm),
      hframe.checksumsAgree_eq, hex]
    split
    · exact ⟨_, _, rfl, rfl, hvalid.finish _⟩
    · exact ⟨_, _, rfl, rfl, (hvalid.extracted en _).finish _⟩
  · rw [decodeFrame_unmatched f en ex s hm, decodeFrame_unmatched f en ex s' (hmatch ▸ hm), hmatch]
    refine ⟨_, _, rfl, rfl, ?_⟩
    exact (sameDecode_decodePrologue hstatus).finish _

/-- The SCM+ fields lie in bytes 2 to 15 (42_extract.md R150). -/
theorem AgreeBelow.scmpFields_eq {m m' : Memory} (h : AgreeBelow 16 m m') :
    scmpFields m = scmpFields m' := by
  have hcrc : crcSpecOk 16 scmpSpec.crc = true := by decide
  rw [scmpFields, scmpFields, h.computedCrc_eq hcrc, h.receivedCrc_eq hcrc,
    h.be_eq (off := 2) (by decide), h.be_eq (off := 3) (by decide), h.be_eq (off := 4) (by decide),
    h.be_eq (off := 8) (by decide), h.be_eq (off := 12) (by decide)]

/-- The 27 intervals lie in bytes 40 to 87 (42_extract.md R146). -/
theorem AgreeBelow.intervals_eq {m m' : Memory} (h : AgreeBelow 92 m m') :
    (List.range 27).map (idmInterval m) = (List.range 27).map (idmInterval m') := by
  refine List.map_congr_left fun j hj => congrArg word (h.bits_eq ?_)
  have hj : j < 27 := List.mem_range.mp hj
  omega

/-- The IDM fields lie in bytes 7 to 91, the transmit time offset where the parameters put it
(42_extract.md R146, R147, R151). -/
theorem AgreeBelow.idmFields_eq {p : Params} {m m' : Memory} (h : AgreeBelow 92 m m')
    (htto : p.ttoOffset + 2 ≤ 92) : idmFields p m = idmFields p m' := by
  rw [idmFields, idmFields, h.intervals_eq, h.be_eq htto, h.be_eq (off := 7) (by decide),
    h.be_eq (off := 8) (by decide), h.be_eq (off := 9) (by decide), h.be_eq (off := 13) (by decide),
    h.be_eq (off := 14) (by decide), h.be_eq (off := 25) (by decide), h.be_eq (off := 28) (by decide),
    h.be_eq (off := 34) (by decide), h.be_eq (off := 88) (by decide), h.be_eq (off := 90) (by decide)]

/-- Well-formed parameters keep the transmit time offset in the frame (10_state.md R42). -/
theorem ttoOffset_le_of_frameSpecOk {p : Params} (h : frameSpecOk (idmSpec p) = true) :
    p.ttoOffset + 2 ≤ 92 := by
  simp only [frameSpecOk, Bool.and_eq_true, List.all_eq_true, decide_eq_true_eq] at h
  obtain ⟨⟨⟨⟨hfields, -⟩, -⟩, -⟩, -⟩ := h
  exact hfields ⟨"tto", p.ttoOffset, 2⟩ (by simp [idmSpec])

/-! ### What a decode keeps -/

/-- A decode writes `STATUS`, the fields and the diagnostic registers alone (44_decode.md R182). -/
theorem decodeFrame_keeps {f : FrameSpec} {en : Bool} {ex : Memory → List Word} {s t : State}
    (h : decodeFrame f en ex s = .next t) :
    t.frame = s.frame ∧ t.bitlen = s.bitlen ∧ t.cfg = s.cfg ∧ t.crcPoly = s.crcPoly ∧
      t.crcInit = s.crcInit ∧ t.crcXorout = s.crcXorout ∧ t.result = s.result := by
  obtain ⟨-, rfl⟩ | ⟨-, -, -, rfl⟩ | ⟨-, -, rfl⟩ := decodeFrame_cases h
  · simp
  · simp [validated]
  · simp [validated]

/-- Settles O30: a well-formed format's preamble, checksums and fields lie in its frame. -/
theorem decodeReadsOnlyItsFrame : Obligations.DecodeReadsOnlyItsFrame := by
  refine ⟨fun s s' hbitlen hcfg hstatus hparams hok => ?_, fun i s t hi h => ?_⟩
  · obtain ⟨hscmp, hidm⟩ : frameSpecOk scmpSpec = true ∧ frameSpecOk (idmSpec s.params) = true := by
      simpa [paramsOk] using hok
    simp only [exec_decodeScmp, exec_decodeIdm, execDecodeScmp, execDecodeIdm, ← hcfg, ← hparams]
    refine ⟨fun hagree => ?_, fun hagree => ?_⟩
    · exact decodeFrame_sameDecode hbitlen hstatus (hagree.sameFrame hscmp) hagree.scmpFields_eq
    · exact decodeFrame_sameDecode hbitlen hstatus (hagree.sameFrame hidm)
        (hagree.idmFields_eq (ttoOffset_le_of_frameSpecOk hidm))
  · obtain rfl | rfl : i = .decodeScmp ∨ i = .decodeIdm := by simpa [isDecode] using hi
    · exact decodeFrame_keeps h
    · exact decodeFrame_keeps h

/-! ### The two commands -/

/-- The decode prologue's writes, register by register (44_decode.md R181). -/
theorem decodePrologue_eq (s : State) :
    decodePrologue s = { s with
      fields := Vector.replicate 38 0, crcRx := 0, crcCalc := 0, sncrcRx := 0, sncrcCalc := 0
      status := withMic false s.status } := by
  rw [← fieldFile_nil]
  rfl

/-- The four ends of a decode in their order (44_decode.md R180 to R184). `P` says the format's preamble
as a statement writes it, `C` that its checksums agree. -/
theorem decodeFrame_eq_next {f : FrameSpec} {en : Bool} {ex : Memory → List Word} {s : State}
    {P C : Prop} [Decidable P] [Decidable C]
    (hP : byteRange s.frame 0 f.preamble.length = f.preamble ↔ P)
    (hC : checksumsAgree f s.frame = true ↔ ¬ C) :
    decodeFrame f en ex s = .next (
      if (lowHalf s.bitlen).toNat ≠ 8 * f.frameBytes then finish .lengthMismatch (decodePrologue s)
      else if ¬ P then finish .preambleMismatch (decodePrologue s)
      else if en = true ∧ C then finish .integrityFailure (validated f s)
      else finish .success (setMic en (setFields (ex s.frame) (validated f s)))) := by
  cases hm : matchFrame f s with
  | lengthMismatch =>
    rw [decodeFrame_unmatched f en ex s (by simp [hm]), hm, if_pos (matchFrame_lengthMismatch.mp hm)]
    rfl
  | preambleMismatch =>
    obtain ⟨hlength, hpreamble⟩ := matchFrame_preambleMismatch.mp hm
    rw [decodeFrame_unmatched f en ex s (by simp [hm]), hm, if_neg (not_not.mpr hlength),
      if_pos (hpreamble ∘ hP.mpr)]
    rfl
  | matched =>
    obtain ⟨hlength, hpreamble⟩ := matchFrame_matched.mp hm
    have hfails : (en && !checksumsAgree f s.frame) = true ↔ en = true ∧ C := by
      rw [Bool.and_eq_true, Bool.not_eq_true', ← Bool.not_eq_true, hC, not_not]
    rw [decodeFrame_matched f en ex s hm, if_neg (not_not.mpr hlength),
      if_neg (not_not.mpr (hP.mp hpreamble)), if_congr hfails rfl rfl, ← apply_ite]

/-- Settles O26: the word by its row, the command by the four ends of a decode for SCM+. -/
theorem decodeScmpResult : Obligations.DecodeScmpResult := by
  refine ⟨command_of_rowMatches_of_opField (k := 5) rfl rfl, fun s => ?_⟩
  have hcrc : checksumsAgree scmpSpec s.frame = true ↔
      ¬ computedCrc s.frame scmpSpec.crc ≠ receivedCrc s.frame scmpSpec.crc :=
    checksumsAgree_scmp_iff.trans not_not.symm
  refine (decodeFrame_eq_next byteRange_eq_scmp_preamble_iff hcrc).trans ?_
  rw [validated, writeDiagnostics, scmpFields, decodePrologue_eq, computedCrc_scmp]
  rfl

/-- Settles O27: the word by its row, the command by the four ends of a decode for IDM. -/
theorem decodeIdmResult : Obligations.DecodeIdmResult := by
  refine ⟨command_of_rowMatches_of_opField (k := 6) rfl rfl, fun s => ?_⟩
  have hcrc : checksumsAgree (idmSpec s.params) s.frame = true ↔
      ¬ (computedCrc s.frame (idmSpec s.params).crc ≠ receivedCrc s.frame (idmSpec s.params).crc ∨
        snComputed (idmSpec s.params) s.frame ≠ snReceived (idmSpec s.params) s.frame) := by
    rw [checksumsAgree_iff, not_or, not_not, not_not]
  have hnibble : be s.frame 8 1 &&& 0x0F = be s.frame 8 1 % 16 :=
    Nat.and_two_pow_sub_one_eq_mod (be s.frame 8 1) 4
  refine (decodeFrame_eq_next byteRange_eq_idm_preamble_iff hcrc).trans ?_
  rw [validated, writeDiagnostics, idmFields, decodePrologue_eq, computedCrc_idm, snComputed_idm,
    hnibble, ← ofHalf_be_two s.frame 88, ← ofHalf_be_two s.frame 90]
  rfl

end Sys2Proof.Machine
end

section
/-! SUPPORT. Proofs of the statements about the encoding of instructions (30_encoding.md): the operands as
fields of an instruction's word, and a legal word as nothing but those fields; the statements O1, O2 and
O5. -/

namespace Sys2Proof.Machine

open Sys2Proof Sys2Proof.Laws

/-! ### An instruction and the fields of its word -/

/-- The low part of a concatenation is a field of it. -/
theorem extractLsb'_append_low {m n : Nat} (x : BitVec m) (y : BitVec n) :
    (x ++ y).extractLsb' 0 n = y := by
  simp [BitVec.extractLsb'_append_eq_right]

/-- A field of the high part of a concatenation is a field of the whole. -/
theorem extractLsb'_append_high {m n start len : Nat} (x : BitVec m) (y : BitVec n) :
    (x ++ y).extractLsb' (n + start) len = x.extractLsb' start len := by
  apply BitVec.eq_of_getLsbD_eq
  intro i hi
  simp [BitVec.getLsbD_append, Nat.add_assoc]

/-- The operands of an instruction stand in its word at the fields of its row (30_encoding.md R83 to R86). -/
theorem rowInstr_encode (i : Instr) : rowInstr (rowIndex i) (encode i) = i := by
  cases i with
  | crc off len =>
    have hlen : (encode (.crc off len)).extractLsb' 0 8 = len := extractLsb'_append_low _ _
    have hoff : (encode (.crc off len)).extractLsb' 8 8 = off :=
      (extractLsb'_append_high (start := 0) _ _).trans (extractLsb'_append_low _ _)
    rw [rowIndex, rowInstr, hlen, hoff]
  | extu off w =>
    have hw : (encode (.extu off w)).extractLsb' 0 3 = w := extractLsb'_append_low _ _
    have hoff : (encode (.extu off w)).extractLsb' 8 8 = off :=
      (extractLsb'_append_high (start := 5) _ _).trans
        ((extractLsb'_append_high (start := 0) _ _).trans (extractLsb'_append_low _ _))
    rw [rowIndex, rowInstr, hw, hoff]
  | extb pos w =>
    have hw : (encode (.extb pos w)).extractLsb' 0 6 = w := extractLsb'_append_low _ _
    have hpos : (encode (.extb pos w)).extractLsb' 8 12 = pos :=
      (extractLsb'_append_high (start := 2) _ _).trans
        ((extractLsb'_append_high (start := 0) _ _).trans (extractLsb'_append_low _ _))
    rw [rowIndex, rowInstr, hw, hpos]
  | matchScmp | matchIdm | decodeScmp | decodeIdm => rfl

/-- A well-formed instruction's word matches the instruction's row (30_encoding.md R88). -/
theorem rowMatches_encode {i : Instr} (h : i.wellFormed = true) : rowMatches (rowIndex i) (encode i) := by
  cases i with
  | crc off len => exact EncodingRow.crc off len h
  | extu off w => exact EncodingRow.extu off w h
  | extb pos w => exact EncodingRow.extb pos w h
  | matchScmp => exact EncodingRow.matchScmp h
  | matchIdm => exact EncodingRow.matchIdm h
  | decodeScmp => exact EncodingRow.decodeScmp h
  | decodeIdm => exact EncodingRow.decodeIdm h

theorem decode_encode {i : Instr} (h : i.wellFormed = true) : decode (encode i) = .ok i := by
  rw [decode_of_rowMatches (rowMatches_encode h), rowInstr_encode]

/-- Settles O1: the word matches the instruction's row, and its fields are the operands. -/
theorem encodeThenDecodeIsIdentity : Obligations.EncodeThenDecodeIsIdentity :=
  fun _ => decode_encode

/-- Two words are equal when they agree on `OP` and on the fields that the cuts `lo` and `mid` make of the
28 bits below it. -/
theorem word_eq_of_fields {v w : Word} (lo mid hi : Nat) (hsum : lo + (mid + hi) = 28)
    (hop : opField v = opField w) (hhi : v.extractLsb' (lo + mid) hi = w.extractLsb' (lo + mid) hi)
    (hmid : v.extractLsb' lo mid = w.extractLsb' lo mid)
    (hlo : v.extractLsb' 0 lo = w.extractLsb' 0 lo) : v = w := by
  rw [word_eq_iff, ← hsum, extractLsb'_add_eq_iff, Nat.zero_add, extractLsb'_add_eq_iff]
  exact ⟨hop, ⟨hhi, hmid⟩, hlo⟩

/-- No bit of a word that matches a row is outside the fields of the row (30_encoding.md R83 to R88). -/
theorem encode_rowInstr {k : Fin 7} {w : Word} (h : rowMatches k w) : encode (rowInstr k w) = w := by
  have hi : rowInstr k w = rowInstr k (encode (rowInstr k w)) := by
    simpa using (rowInstr_encode (rowInstr k w)).symm
  have hwf : (rowInstr k w).wellFormed = true := decode_wellFormed (decode_of_rowMatches h)
  have he : rowMatches k (encode (rowInstr k w)) := by simpa using rowMatches_encode hwf
  generalize encode (rowInstr k w) = v at hi he
  match k with
  | 0 =>
    obtain ⟨hop, hhigh⟩ := rowMatches_crc_iff.mp h
    obtain ⟨hop', hhigh'⟩ := rowMatches_crc_iff.mp he
    obtain ⟨hoff, hlen⟩ := Instr.crc.inj hi
    exact word_eq_of_fields 8 8 12 rfl (hop'.trans hop.symm) (hhigh'.trans hhigh.symm) hoff.symm hlen.symm
  | 1 =>
    obtain ⟨hop, hhigh, hlow, -⟩ := rowMatches_extu_iff.mp h
    obtain ⟨hop', hhigh', hlow', -⟩ := rowMatches_extu_iff.mp he
    obtain ⟨hoff, hw⟩ := Instr.extu.inj hi
    exact word_eq_of_fields 8 8 12 rfl (hop'.trans hop.symm) (hhigh'.trans hhigh.symm) hoff.symm
      ((extractLsb'_add_eq_iff v w 0 3 5).mpr ⟨hlow'.trans hlow.symm, hw.symm⟩)
  | 2 =>
    obtain ⟨hop, hhigh, hlow, -⟩ := rowMatches_extb_iff.mp h
    obtain ⟨hop', hhigh', hlow', -⟩ := rowMatches_extb_iff.mp he
    obtain ⟨hpos, hw⟩ := Instr.extb.inj hi
    exact word_eq_of_fields 8 12 8 rfl (hop'.trans hop.symm) (hhigh'.trans hhigh.symm) hpos.symm
      ((extractLsb'_add_eq_iff v w 0 6 2).mpr ⟨hlow'.trans hlow.symm, hw.symm⟩)
  | 3 | 4 | 5 | 6 =>
    have hall (x : Word) : x &&& 0xFFFFFFFF = x := BitVec.and_allOnes
    exact (hall v).symm.trans ((Eq.trans he h.symm).trans (hall w))

/-- Settles O2: a legal word matches its command's row, and the row has no other bit. -/
theorem decodeThenEncodeIsIdentity : Obligations.DecodeThenEncodeIsIdentity := by
  intro w i h
  obtain ⟨hrow, hi⟩ := decode_eq_ok_iff.mp h
  exact ⟨(congrArg encode hi).trans (encode_rowInstr hrow), decode_wellFormed h⟩

/-- A word that is an instruction's encoding decodes to it. -/
theorem decode_of_encode_eq {i : Instr} {w : Word} (hi : i.wellFormed = true) (h : encode i = w) :
    decode w = .ok i :=
  h ▸ decode_encode hi

/-- Settles O5: each word is its command's encoding by computation, and so decodes to the command. -/
theorem workedEncodings : Obligations.WorkedEncodings :=
  ⟨decode_of_encode_eq rfl rfl, rfl, decode_of_encode_eq rfl rfl, rfl, decode_of_encode_eq rfl rfl, rfl,
    decode_of_encode_eq rfl rfl, rfl, decode_of_encode_eq rfl rfl, rfl, decode_of_encode_eq rfl rfl, rfl,
    decode_of_encode_eq rfl rfl, rfl, decode_of_encode_eq rfl rfl, rfl⟩

end Sys2Proof.Machine
end

section
/-! SUPPORT. Proofs of the statements about the invariant (10_state.md): the outcome of a command, and what
a command, a host write and a host access keep of `State.Inv`; the statements O51 and O52. -/

namespace Sys2Proof.Machine

open Sys2Proof Sys2Proof.Laws

/-! ### The outcome of a command -/

namespace CommandEffect

variable {w : Word} {s t : State} (h : CommandEffect w s t)
include h

/-- A command ends in a named outcome, never in `NONE` (10_state.md R23). -/
theorem outcome_named : 1 ≤ (statusOutcome t.status).toNat ∧ (statusOutcome t.status).toNat ≤ 6 := by
  have hend : ∃ o : OutcomeCode, o ≠ .none ∧ statusOutcome t.status = o.code := by
    cases h with
    | illegal => exact ⟨.illegalCommand, nofun, by simp⟩
    | outOfRange => exact ⟨.rangeError, nofun, by simp⟩
    | value => exact ⟨.success, nofun, by simp⟩
    | matcher m => exact ⟨m.outcome, by cases m <;> nofun, by simp⟩
    | @decodeMismatch _ m => exact ⟨m.outcome, by cases m <;> nofun, by simp⟩
    | decodeIntegrity => exact ⟨.integrityFailure, nofun, by simp⟩
    | decodeSuccess => exact ⟨.success, nofun, by simp⟩
  obtain ⟨o, ho, hcode⟩ := hend
  rw [hcode]
  cases o with
  | none => exact absurd rfl ho
  | _ => decide

/-- An error outcome sets `ERR` (10_state.md R24). -/
theorem statusErr_of_error (h5 : 5 ≤ (statusOutcome t.status).toNat) : statusErr t.status = true := by
  have h6 := h.outcome_named.2
  have hcode : statusOutcome t.status = 5 ∨ statusOutcome t.status = 6 := by
    simp only [BitVec.toNat_eq, BitVec.reduceToNat, BitVec.ofNat_eq_ofNat]
    omega
  rw [h.statusErr_eq, decide_eq_true hcode, Bool.or_true]

/-- A word with `OP` 5 that ends in `SUCCESS` is one of the two `DECODE` words: every bit of their rows is
fixed (30_encoding.md R88). -/
theorem decode_word_of_success (hop : statusLastop t.status = 5) (hout : statusOutcome t.status = 1) :
    w = 0x50000000 ∨ w = 0x50000001 := by
  have hop : opField w = 5 := h.latched.2.symm.trans hop
  cases hw : decode w with
  | error e =>
    have h6 := h.illegalCommand_iff.mpr ⟨e, hw⟩
    rw [hout] at h6
    cases h6
  | ok i =>
    have hall : w &&& 0xFFFFFFFF = w := BitVec.and_allOnes
    have hrow := rowMatches_of_decode hw
    match hk : rowIndex i with
    | 0 => simp [(rowMatches_crc_iff.mp (hk ▸ hrow)).1] at hop
    | 1 => simp [(rowMatches_extu_iff.mp (hk ▸ hrow)).1] at hop
    | 2 => simp [(rowMatches_extb_iff.mp (hk ▸ hrow)).1] at hop
    | 3 => simp [(rowMatches_matchScmp_iff.mp (hk ▸ hrow)).1] at hop
    | 4 => simp [(rowMatches_matchIdm_iff.mp (hk ▸ hrow)).1] at hop
    | 5 => exact .inl (hall.symm.trans (hk ▸ hrow :))
    | 6 => exact .inr (hall.symm.trans (hk ▸ hrow :))

/-- The diagnostic registers hold 16-bit values, or what they held (10_state.md R32). -/
theorem diagnostics_reserved :
    (t.crcRx.extractLsb' 16 16 = 0 ∨ t.crcRx = s.crcRx) ∧
    (t.crcCalc.extractLsb' 16 16 = 0 ∨ t.crcCalc = s.crcCalc) ∧
    (t.sncrcRx.extractLsb' 16 16 = 0 ∨ t.sncrcRx = s.sncrcRx) ∧
    (t.sncrcCalc.extractLsb' 16 16 = 0 ∨ t.sncrcCalc = s.sncrcCalc) := by
  cases h <;> simp [validated]

end CommandEffect

/-- A decode sets `MIC` beside agreeing checksums only (10_state.md R25, 44_decode.md R184). -/
theorem mic_agrees_of_decodeFrame {f : FrameSpec} {en : Bool} {ex : Memory → List Word} {s t : State}
    (h : decodeFrame f en ex s = .next t) (hmic : statusMic t.status = true) :
    t.crcRx = t.crcCalc ∧ t.sncrcRx = t.sncrcCalc := by
  obtain ⟨-, rfl⟩ | ⟨-, -, -, rfl⟩ | ⟨hm, hagree, rfl⟩ := decodeFrame_cases h
  · simp at hmic
  · simp [validated] at hmic
  · obtain ⟨hcrc, hsn⟩ := checksumsAgree_iff.mp (hagree (by simpa using hmic))
    simp [validated, hcrc, hsn]

/-- `MIC` stands beside agreeing checksums after a command when it did before (10_state.md R25). -/
theorem mic_agrees_of_command {w : Word} {s t : State} (h : command w s = .next t)
    (hs : statusMic s.status = true → s.crcRx = s.crcCalc ∧ s.sncrcRx = s.sncrcCalc)
    (hmic : statusMic t.status = true) : t.crcRx = t.crcCalc ∧ t.sncrcRx = t.sncrcCalc := by
  by_cases hd : ∃ i, decode w = .ok i ∧ isDecode i = true
  · obtain ⟨i, hw, hi⟩ := hd
    rw [command_of_decode hw] at h
    obtain rfl | rfl : i = .decodeScmp ∨ i = .decodeIdm := by simpa [isDecode] using hi
    · exact mic_agrees_of_decodeFrame h hmic
    · exact mic_agrees_of_decodeFrame h hmic
  · have hn : ∀ i, decode w = .ok i → isDecode i = false := fun i hw =>
      Bool.eq_false_iff.mpr fun hi => hd ⟨i, hw, hi⟩
    obtain ⟨-, hrx, hcalc, hsrx, hscalc, hmicEq⟩ := (CommandEffect.of_command h).decode_registers_kept hn
    rw [hrx, hcalc, hsrx, hscalc]
    exact hs (hmicEq ▸ hmic)

/-! ### The invariant -/

theorem State.Inv.of_command {w : Word} {s t : State} (hs : s.Inv) (hc : command w s = .next t) :
    t.Inv := by
  have h := CommandEffect.of_command hc
  obtain ⟨hframe, hbitlen, hcfg, hpoly, hinit, hxor, hparams, -⟩ := h.unwritten
  obtain ⟨hcmd, hop⟩ := h.latched
  obtain ⟨hone, hsix⟩ := h.outcome_named
  obtain ⟨hrx, hcalc, hsrx, hscalc⟩ := h.diagnostics_reserved
  exact {
    params_ok := hparams ▸ hs.params_ok
    frame_wf := hframe ▸ hs.frame_wf
    status_reserved := h.status_reserved.trans hs.status_reserved
    outcome_named := hsix
    bitlen_reserved := hbitlen ▸ hs.bitlen_reserved
    cfg_reserved := hcfg ▸ hs.cfg_reserved
    crcPoly_reserved := hpoly ▸ hs.crcPoly_reserved
    crcInit_reserved := hinit ▸ hs.crcInit_reserved
    crcXorout_reserved := hxor ▸ hs.crcXorout_reserved
    crcRx_reserved := hrx.elim id (· ▸ hs.crcRx_reserved)
    crcCalc_reserved := hcalc.elim id (· ▸ hs.crcCalc_reserved)
    sncrcRx_reserved := hsrx.elim id (· ▸ hs.sncrcRx_reserved)
    sncrcCalc_reserved := hscalc.elim id (· ▸ hs.sncrcCalc_reserved)
    lastop_is_op := hop.trans (congrArg opField hcmd).symm
    none_before_commands := fun h0 => by simp [h0] at hone
    error_sets_err := h.statusErr_of_error
    mic_agrees := mic_agrees_of_command hc hs.mic_agrees
    success_decode := fun h5 h1 => hcmd ▸ h.decode_word_of_success h5 h1 }

/-- A write to a frame word keeps the canonical form, one to another register keeps its reserved bits 0
(10_state.md R30, R34). -/
theorem State.Inv.of_hostWrite {r : Reg} {v : Word} {s t : State} (hs : s.Inv)
    (h : hostWrite r v s = .next t) : t.Inv := by
  cases r with
  | cmd => exact hs.of_command h
  | bitlen => cases h; exact { hs with bitlen_reserved := upper_ofHalf _ }
  | crcPoly => cases h; exact { hs with crcPoly_reserved := upper_ofHalf _ }
  | crcInit => cases h; exact { hs with crcInit_reserved := upper_ofHalf _ }
  | crcXorout => cases h; exact { hs with crcXorout_reserved := upper_ofHalf _ }
  | cfg =>
    cases h
    have hcfg : ((v.extractLsb' 0 2).setWidth 32).extractLsb' 2 30 = 0 := by
      ext i hi
      simp
    exact { hs with cfg_reserved := hcfg }
  | fbw j => cases h; exact { hs with frame_wf := Memory.wf_writeWord _ _ _ hs.frame_wf j.isLt }
  | status | result | crcRx | crcCalc | sncrcRx | sncrcCalc | field => cases h; exact hs

/-- The reset state meets the invariant whatever its well-formed parameters, its drawn bytes, its pending
accesses and its reads (10_state.md R45). -/
theorem inv_of_reset {s : State} (hp : paramsOk s.params = true) (hm : s.frame.wf = true) :
    { State.reset with
      frame := s.frame, params := s.params, draw := s.draw, pending := s.pending,
      reads := s.reads }.Inv := by
  constructor
  case params_ok => exact hp
  case frame_wf => exact hm
  case none_before_commands => exact fun _ => ⟨rfl, rfl, rfl, fieldFile_nil.symm, rfl, rfl, rfl, rfl⟩
  all_goals simp [State.reset, statusOutcome, statusLastop, statusErr, statusMic, opField]

theorem State.Inv.of_serve {a : HostAccess} {s t : State} (hs : s.Inv) (h : serve a s = .next t) :
    t.Inv := by
  obtain ⟨-, rfl⟩ | ⟨r, -, rfl⟩ | ⟨r, v, -, hw⟩ := serve_cases h
  · exact inv_of_reset (s := hostReset s) hs.params_ok (Memory.wf_drawn _)
  · exact { hs with }
  · exact hs.of_hostWrite hw

/-- A step with nothing pending waits, any other serves the oldest access (20_memory.md R72). -/
theorem step_cases {s t : State} (h : step s = .next t) :
    t = s ∨ ∃ a rest, s.pending = a :: rest ∧ serve a { s with pending := rest } = .next t := by
  cases hp : s.pending with
  | nil =>
    simp only [step, serveNext, hp] at h
    exact .inl (Host.Outcome.next.inj h).symm
  | cons a rest => exact .inr ⟨a, rest, rfl, (step_of_pending hp).symm.trans h⟩

/-- Settles O51: an access keeps the invariant, and the queue is no part of it. -/
theorem everyStepKeepsInv : Obligations.EveryStepKeepsInv := by
  intro s t hs h
  obtain rfl | ⟨a, rest, -, ha⟩ := step_cases h
  · exact hs
  · have hpop : { s with pending := rest }.Inv := { hs with }
    exact hpop.of_serve ha

/-- Settles O52: a machine is built for well-formed parameters, from the reset state. -/
theorem resetStateMeetsInv : Obligations.ResetStateMeetsInv := by
  refine ⟨fun p s h => ?_, ?_⟩
  · have hp : paramsOk p = true := by
      by_contra hp
      simp [configure, hp] at h
    obtain rfl := configure_eq_some h
    exact inv_of_reset (s := { State.reset with params := p }) hp (Memory.wf_drawn 0)
  · have hdefault : paramsOk Params.default = true := by decide
    rw [configure, if_pos hdefault]
    rfl

end Sys2Proof.Machine
end

section
/-! SUPPORT. Proofs of the statements about single steps and runs of the block (10_state.md, 20_memory.md,
60_exceptions.md, 70_reset_and_hazards.md): what an access keeps, which register an offset names, one
access at a time; the statements O36, O48, O8, O6, O7, O43, O44, O45, O47 and O50. -/

namespace Sys2Proof.Machine

open Sys2Proof

/-! ### STATUS as a number -/

/-- A bit as a digit of the number. -/
theorem toNat_getLsbD (w : Word) (i : Nat) : (w.getLsbD i).toNat = w.toNat / 2 ^ i % 2 := by
  rw [← BitVec.testBit_toNat, Nat.toNat_testBit]

/-- A field as digits of the number. -/
theorem toNat_extractLsb'_eq (w : Word) (i n : Nat) :
    (w.extractLsb' i n).toNat = w.toNat / 2 ^ i % 2 ^ n := by
  rw [BitVec.extractLsb'_toNat, Nat.shiftRight_eq_div_pow]

/-- Settles O36: the number is the sum of its digits, and the reserved ones are 0. -/
theorem statusWordLayout : Obligations.StatusWordLayout := by
  intro s hs
  have hreserved : s.status.toNat / 2 ^ 10 % 2 ^ 22 = 0 := by
    rw [← toNat_extractLsb'_eq, hs.status_reserved]
    rfl
  have hlt : s.status.toNat < 2 ^ 32 := s.status.isLt
  rw [statusOutcome, statusLastop, statusErr, statusMic, toNat_getLsbD, toNat_getLsbD,
    toNat_extractLsb'_eq, toNat_extractLsb'_eq]
  omega

/-! ### What an access keeps -/

/-- No host write changes the parameters, the queue or the log of reads (10_state.md R43). -/
theorem hostWrite_keeps {r : Reg} {v : Word} {s t : State} (h : hostWrite r v s = .next t) :
    t.params = s.params ∧ t.pending = s.pending ∧ t.reads = s.reads := by
  cases r with
  | cmd =>
    obtain ⟨-, -, -, -, -, -, hparams, -, hpending, hreads⟩ := (CommandEffect.of_command h).unwritten
    exact ⟨hparams, hpending, hreads⟩
  | _ => cases h; exact ⟨rfl, rfl, rfl⟩

/-- No access changes the parameters or the queue behind it, reset included (10_state.md R43). -/
theorem serve_keeps {a : HostAccess} {s t : State} (h : serve a s = .next t) :
    t.params = s.params ∧ t.pending = s.pending := by
  obtain ⟨-, rfl⟩ | ⟨r, -, rfl⟩ | ⟨r, v, -, hw⟩ := serve_cases h
  · exact ⟨rfl, rfl⟩
  · exact ⟨rfl, rfl⟩
  · obtain ⟨hparams, hpending, -⟩ := hostWrite_keeps hw
    exact ⟨hparams, hpending⟩

/-- Settles O48: waiting changes nothing, and no access changes the parameters. -/
theorem designParametersNeverChange : Obligations.DesignParametersNeverChange := by
  intro s t h
  obtain rfl | ⟨a, rest, -, ha⟩ := step_cases h
  · rfl
  · exact (serve_keeps ha).1

/-! ### Runs -/

theorem Core.run_succ {M : Host.Core} {s t : M.State} (n : Nat) (h : M.step s = .next t) :
    M.run (n + 1) s = M.run n t := by
  rw [Host.Core.run, h]

/-- A run goes on from the state its first step answers. -/
theorem run_succ_of_step {s t : State} (n : Nat) (h : step s = .next t) :
    Host.Core.run core (n + 1) s = Host.Core.run core n t :=
  Core.run_succ (M := core) n h

/-- A safe state's step answers a safe state (20_memory.md R61). -/
theorem step_of_safe {s : State} (hs : s.safe) : ∃ t, step s = .next t ∧ t.safe := by
  obtain ⟨hp, hall⟩ := hs
  cases hpend : s.pending with
  | nil => exact ⟨s, by simp only [step, serveNext, hpend], hp, hall⟩
  | cons a rest =>
    rw [hpend] at hall
    have hallowed : a.allowed s.params.base := hall a List.mem_cons_self
    obtain ⟨t, ht⟩ := serve_of_allowed (s := { s with pending := rest }) hp hallowed
    obtain ⟨hparams, hpending⟩ := serve_keeps ht
    refine ⟨t, (step_of_pending hpend).trans ht, hparams ▸ hp, fun b hb => ?_⟩
    rw [hpending] at hb
    rw [hparams]
    exact hall b (List.mem_cons_of_mem a hb)

/-- Settles O8, by induction on the number of steps. -/
theorem safeRunsNeverStop : Obligations.SafeRunsNeverStop := by
  intro n
  induction n with
  | zero => exact fun s hs => ⟨s, rfl, hs⟩
  | succ n ih =>
    intro s hs
    obtain ⟨t, ht, hsafe⟩ := step_of_safe hs
    rw [run_succ_of_step n ht]
    exact ih t hsafe

/-! ### A step at a known access -/

/-- A pending word write to a register's own address is that register's host write (20_memory.md R60). -/
theorem step_of_pending_write {s : State} {addr : Nat} {r : Reg} {v : Word} {rest : List HostAccess}
    (hp : paramsOk s.params = true) (hpend : s.pending = .write addr 32 v :: rest)
    (haddr : addr = s.params.base + r.offset) :
    step s = hostWrite r v { s with pending := rest } := by
  rw [step_of_pending hpend, haddr]
  exact serve_write hp (accessTarget_offset s.params.base r)

/-- A pending word read of a register's own address logs the register (20_memory.md R69). -/
theorem step_of_pending_read {s : State} {r : Reg} {rest : List HostAccess}
    (hp : paramsOk s.params = true)
    (hpend : s.pending = .read (s.params.base + r.offset) 32 :: rest) :
    step s = .next (hostRead r { s with pending := rest }) := by
  rw [step_of_pending hpend]
  exact serve_read hp (accessTarget_offset s.params.base r)

/-- Settles O6: the write reaches `CMD`, which latches the word and runs what it decodes to. -/
theorem stepRunsTheDecodedCommand : Obligations.StepRunsTheDecodedCommand := by
  intro s w rest hp hpend l
  have hstep : step s = command w { s with pending := rest } :=
    step_of_pending_write (r := .cmd) hp hpend rfl
  refine ⟨fun i hi => ?_, fun e he => ?_⟩
  · rw [hstep, command_of_decode hi]
    rfl
  · rw [hstep, command_of_illegal he]

/-- Settles O7: the write reaches `CMD`, and every command ends in a named outcome. -/
theorem everyCommandWordCompletes : Obligations.EveryCommandWordCompletes := by
  intro s w rest hp hpend
  obtain ⟨t, ht, heffect⟩ := command_effect w { s with pending := rest }
  obtain ⟨hcmd, hop⟩ := heffect.latched
  obtain ⟨-, hpending⟩ := hostWrite_keeps (r := .cmd) ht
  exact ⟨t, (step_of_pending_write (r := .cmd) hp hpend rfl).trans ht, hpending.1, hcmd, hop,
    heffect.outcome_named⟩

/-- Settles O50: the reset event answers `hostReset`, whose registers are the reset state's. -/
theorem resetEventRestoresRegisters : Obligations.ResetEventRestoresRegisters := by
  intro s rest hp hpend
  have hserve : serve .reset { s with pending := rest } = .next (hostReset { s with pending := rest }) := by
    simp [serve, hp]
  refine ⟨_, (step_of_pending hpend).trans hserve, ?_⟩
  simp [statusOutcome, statusErr]

/-- Settles O44: the read logs the register, and each register is read from the field of its name. -/
theorem readHasNoSideEffect : Obligations.ReadHasNoSideEffect :=
  ⟨fun _ _ _ hp hpend => step_of_pending_read hp hpend,
    fun _ => ⟨rfl, rfl, rfl, rfl, rfl, rfl, rfl, rfl, rfl, rfl, rfl, rfl, fun _ => rfl⟩⟩

/-- Settles O45: the write leaves the queue to the read, which logs what the write stored. -/
theorem readAfterWriteSeesTheWrite : Obligations.ReadAfterWriteSeesTheWrite := by
  intro r v s rest hp hr hpend
  obtain ⟨t, ht, hread⟩ := hostWrite_stores v
    { s with pending := .read (s.params.base + r.offset) 32 :: rest } hr
  obtain ⟨hparams, hpending, hreads⟩ := hostWrite_keeps ht
  have hwrite : step s = .next t := (step_of_pending_write hp hpend rfl).trans ht
  have hlog : step t = .next (hostRead r { t with pending := rest }) := by
    refine step_of_pending_read (hparams ▸ hp) ?_
    rw [hpending, hparams]
  refine ⟨hostRead r { t with pending := rest }, ?_, ?_, rfl⟩
  · exact (run_succ_of_step 1 hwrite).trans (run_succ_of_step 0 hlog)
  · have hvalue : readReg r { t with pending := rest } = readReg r t := by cases r <;> rfl
    rw [hostRead_reads, hvalue, hread, hreads]

/-- Settles O47: each write stores its word's four bytes, and a byte field reads them back in order. -/
theorem fieldsStraddleFrameWords : Obligations.FieldsStraddleFrameWords := by
  intro s rest hp hpend
  have hfirst := step_of_pending_write (r := .fbw 0) hp hpend rfl
  have hsecond := step_of_pending_write (r := .fbw 1) (v := 0x0000012C) (rest := rest)
    (s := { s with
      pending := .write (s.params.base + 0x104) 32 0x0000012C :: rest
      frame := s.frame.writeWord 0 0x16A31E02 }) hp rfl rfl
  refine ⟨_, (run_succ_of_step 1 hfirst).trans (run_succ_of_step 0 hsecond), ?_, ?_⟩
  · simp [be_succ, writeReg, Memory.read_writeWord]
  · simp [be_succ, writeReg, Memory.read_writeWord]

/-! ### The register map -/

/-- At an aligned offset stands the register whose offset it is, and no other (20_memory.md R60). -/
theorem regAt_eq_some_iff {off : Nat} {r : Reg} (hal : off % 4 = 0) :
    regAt off = some r ↔ r.offset = off :=
  ⟨offset_of_regAt hal, fun h => h ▸ regAt_offset r⟩

theorem exists_regAt_iff_mapped {off : Nat} (hal : off % 4 = 0) :
    (∃ r, regAt off = some r) ↔ Mapped off := by
  rw [mapped_iff]
  exact exists_congr fun _ => regAt_eq_some_iff hal

/-- Settles O43: the offsets by the map, the rest by the register at its own offset. -/
theorem registerMapIsOneToOne : Obligations.RegisterMapIsOneToOne := by
  refine ⟨⟨rfl, rfl, rfl, rfl, rfl, rfl, rfl, rfl, rfl, rfl, rfl, rfl, fun _ => rfl, fun _ => rfl⟩,
    fun _ _ => regAt_eq_some_iff, fun off hal => ?_, fun _ => exists_regAt_iff_mapped⟩
  rw [exists_regAt_iff_mapped hal, Mapped, and_iff_right hal]

end Sys2Proof.Machine
end

section
/-! SUPPORT. Proofs of the statements about the CRC16 engine (40_crc.md): it is linear, and with an odd
polynomial no byte and no register value is lost in it; the statements O10, O11, O12 and O13. -/

namespace Sys2Proof.Machine

open Sys2Proof

/-! ### Rounds -/

/-- Any number of rounds is linear in the register (40_crc.md R110). -/
theorem repeat_crcShift_xor (poly r r' : Half) (n : Nat) :
    Nat.repeat (crcShift poly) n (r ^^^ r') =
      Nat.repeat (crcShift poly) n r ^^^ Nat.repeat (crcShift poly) n r' := by
  induction n with
  | zero => rfl
  | succ n ih => simp only [Nat.repeat, ih, crcShift_xor]

/-- With an odd polynomial no number of rounds loses a register value (40_crc.md R108). -/
theorem repeat_crcShift_eq_zero {poly r : Half} (hp : poly.getLsbD 0 = true) (n : Nat)
    (h : Nat.repeat (crcShift poly) n r = 0) : r = 0 := by
  induction n with
  | zero => exact h
  | succ n ih => exact ih (crcShift_eq_zero hp h)

/-- With the zero polynomial a round is a shift (40_crc.md R109). -/
theorem repeat_crcShift_zero_poly (r : Half) (n : Nat) : Nat.repeat (crcShift 0) n r = r <<< n := by
  induction n with
  | zero => simp [Nat.repeat]
  | succ n ih =>
    rw [Nat.repeat, ih, crcShift_eq, ite_self, BitVec.shiftLeft_add]
    exact BitVec.xor_zero

/-! ### Bytes -/

/-- A byte's place in the register, with bit 7 of the byte at bit 15 (40_crc.md R100). -/
theorem byteAtTop_xor (b b' : Byte) :
    (b ^^^ b').setWidth 16 <<< 8 = (b.setWidth 16 <<< 8 : Half) ^^^ (b'.setWidth 16 <<< 8) := by
  rw [BitVec.setWidth_xor, BitVec.shiftLeft_xor_distrib]

/-- The register holds the whole byte (40_crc.md R100). -/
theorem byteAtTop_eq_zero {b : Byte} (h : (b.setWidth 16 <<< 8 : Half) = 0) : b = 0 := by
  apply BitVec.eq_of_toNat_eq
  have hb := b.isLt
  have hn := congrArg BitVec.toNat h
  simp [BitVec.toNat_shiftLeft, Nat.shiftLeft_eq] at hn ⊢
  omega

/-- One byte is linear in register and byte together (40_crc.md R110). -/
theorem crcByte_xor (poly r r' : Half) (b b' : Byte) :
    crcByte poly r b ^^^ crcByte poly r' b' = crcByte poly (r ^^^ r') (b ^^^ b') := by
  rw [crcByte, crcByte, crcByte, byteAtTop_xor, ← repeat_crcShift_xor]
  congr 1
  ac_rfl

/-- With an odd polynomial two bytes end in one register value only when their difference makes up for
that of the registers they began with (40_crc.md R108). -/
theorem xor_eq_of_crcByte_eq {poly r r' : Half} {b b' : Byte} (hp : poly.getLsbD 0 = true)
    (h : crcByte poly r b = crcByte poly r' b') : r ^^^ r' = (b ^^^ b').setWidth 16 <<< 8 := by
  have hzero : crcByte poly (r ^^^ r') (b ^^^ b') = 0 :=
    (crcByte_xor poly r r' b b').symm.trans (BitVec.xor_eq_zero_iff.mpr h)
  exact BitVec.xor_eq_zero_iff.mp (repeat_crcShift_eq_zero hp 8 hzero)

/-- With an odd polynomial a byte loses no register value. -/
theorem register_eq_of_crcByte_eq {poly r r' : Half} {b : Byte} (hp : poly.getLsbD 0 = true)
    (h : crcByte poly r b = crcByte poly r' b) : r = r' := by
  have hxor := xor_eq_of_crcByte_eq hp h
  rw [BitVec.xor_self] at hxor
  exact BitVec.xor_eq_zero_iff.mp hxor

/-- With an odd polynomial no register loses a byte's value. -/
theorem byte_eq_of_crcByte_eq {poly r : Half} {b b' : Byte} (hp : poly.getLsbD 0 = true)
    (h : crcByte poly r b = crcByte poly r b') : b = b' := by
  have hxor := xor_eq_of_crcByte_eq hp h
  rw [BitVec.xor_self] at hxor
  exact BitVec.xor_eq_zero_iff.mp (byteAtTop_eq_zero hxor.symm)

/-- With the zero polynomial the byte is shifted out of the register (40_crc.md R109). -/
theorem crcByte_zero_poly (r : Half) (b : Byte) : crcByte 0 r b = r <<< 8 := by
  have hout : (b.setWidth 16 <<< 8 <<< 8 : Half) = 0 := by
    rw [← BitVec.shiftLeft_add]
    exact BitVec.shiftLeft_eq_zero (by decide)
  rw [crcByte, repeat_crcShift_zero_poly, BitVec.shiftLeft_xor_distrib, hout]
  exact BitVec.xor_zero

/-! ### Sequences -/

/-- Linearity in register and sequence together (40_crc.md R110). -/
theorem crc16_xor (poly : Half) {a b : List Byte} (h : a.length = b.length) (r r' : Half) :
    crc16 a poly r ^^^ crc16 b poly r' = crc16 (List.zipWith (· ^^^ ·) a b) poly (r ^^^ r') := by
  induction a generalizing b r r' with
  | nil =>
    obtain rfl := List.eq_nil_of_length_eq_zero h.symm
    rfl
  | cons x a ih =>
    cases b with
    | nil => cases h
    | cons y b =>
      rw [List.zipWith_cons_cons, crc16_cons, crc16_cons, crc16_cons, ih (Nat.succ.inj h), crcByte_xor]

/-- Settles O13, by `crc16_xor` with the same register twice. -/
theorem crcIsLinear : Obligations.CrcIsLinear := by
  intro a b poly init h
  rw [crc16_xor poly h, BitVec.xor_self]
  rfl

/-- With an odd polynomial the bytes that follow keep two different registers apart (40_crc.md R108). -/
theorem crc16_ne_of_register_ne {poly r r' : Half} (hp : poly.getLsbD 0 = true) (seq : List Byte)
    (h : r ≠ r') : crc16 seq poly r ≠ crc16 seq poly r' := by
  induction seq generalizing r r' with
  | nil => exact h
  | cons b seq ih =>
    rw [crc16_cons, crc16_cons]
    exact ih fun he => h (register_eq_of_crcByte_eq hp he)

/-- With an odd polynomial two sequences that differ in one byte have different CRCs: the registers differ
after that byte, and stay apart (40_crc.md R108). -/
theorem crc16_set_ne {poly : Half} (hp : poly.getLsbD 0 = true) {a : List Byte} {i : Nat} {b : Byte}
    (hi : i < a.length) (hb : b ≠ a.getD i 0) (r : Half) : crc16 (a.set i b) poly r ≠ crc16 a poly r := by
  induction a generalizing i r with
  | nil => cases hi
  | cons x a ih =>
    cases i with
    | zero =>
      rw [List.set_cons_zero, crc16_cons, crc16_cons]
      exact crc16_ne_of_register_ne hp a fun he => hb (byte_eq_of_crcByte_eq hp he)
    | succ i =>
      rw [List.set_cons_succ, crc16_cons, crc16_cons]
      exact ih (Nat.lt_of_succ_lt_succ hi) hb _

/-- Inverting a bit changes the byte. -/
theorem xor_bit_ne (b : Byte) {k : Nat} (hk : k < 8) : b ^^^ (1#8 <<< k) ≠ b := by
  intro h
  have hbit := congrArg (fun v => v.getLsbD k) h
  simp [hk] at hbit

/-- Settles O11: a byte with one bit inverted is another byte. -/
theorem crcSingleBitSensitivity : Obligations.CrcSingleBitSensitivity :=
  fun _ init _ _ _ hp hi hk => crc16_set_ne hp hi (xor_bit_ne _ hk) init

/-! ### The zero polynomial -/

theorem crc16_zero_poly (seq : List Byte) (r : Half) : crc16 seq 0 r = r <<< (8 * seq.length) := by
  induction seq generalizing r with
  | nil => simp
  | cons b seq ih =>
    rw [crc16_cons, crcByte_zero_poly, ih, ← BitVec.shiftLeft_add, List.length_cons, Nat.mul_succ,
      Nat.add_comm]

/-- A byte shifts the low byte up and the high byte out. -/
theorem shiftLeft_eight_eq (r : Half) : r <<< 8 = (r &&& 0x00FF) <<< 8 := by
  apply BitVec.eq_of_getLsbD_eq
  intro i hi
  simp only [BitVec.getLsbD_shiftLeft, BitVec.getLsbD_and]
  interval_cases i <;> simp

/-- Settles O12: the engine by `crc16_zero_poly`, the command by its range in the declared row. -/
theorem crcZeroPolynomialOnlyShifts : Obligations.CrcZeroPolynomialOnlyShifts := by
  refine ⟨crc16_zero_poly, fun _ => rfl, fun b init => ?_, fun seq init hlen => ?_,
    fun off len s hpoly hrange => ?_⟩
  · rw [crc16_zero_poly, ← shiftLeft_eight_eq]
    rfl
  · rw [crc16_zero_poly, BitVec.shiftLeft_eq_zero (by omega)]
    rfl
  · have hin : ¬ availBytes s < off.toNat + len.toNat := Nat.not_lt.mpr hrange
    have hzero : lowHalf s.crcPoly = 0 := by rw [hpoly]; rfl
    rw [exec_crc, execCrc_of_in_row hin, crcv, hzero, crc16_zero_poly, byteRange_length,
      Nat.add_sub_cancel_left]
    rfl

/-! ### Known values -/

/-- Settles O10: the update is the engine's equation, the values are computed. -/
theorem crcEngineKnownValues : Obligations.CrcEngineKnownValues := by
  refine ⟨crc16_cons, fun _ _ => rfl, fun _ _ _ => rfl, ?_⟩
  decide +kernel

end Sys2Proof.Machine
end

section
/-! SUPPORT. Proofs of the statements about extraction (42_extract.md) and about running a command again
(20_memory.md section 3): fields read one after the other, what the commands with an operand range read,
and a host write repeated; the statements O16, O17, O21, O20 and O46. -/

namespace Sys2Proof.Machine

open Sys2Proof

/-! ### Fields side by side -/

/-- A bit field is its upper bits and its lower bits (42_extract.md R141). -/
theorem bits_add (m : Memory) (pos u v : Nat) :
    bits m pos (u + v) = 2 ^ v * bits m pos u + bits m (pos + u) v := by
  induction v with
  | zero => simp
  | succ v ih =>
    rw [← Nat.add_assoc, bits_succ, bits_succ, ih, pow_succ, Nat.add_assoc pos u v]
    ring

/-- Settles O17, by `bits_add`. -/
theorem bitCursorReadsOn : Obligations.BitCursorReadsOn :=
  bits_add

/-- The lower bits of a bit field are the field that begins at them. -/
theorem bits_add_mod (m : Memory) (pos u v : Nat) : bits m pos (u + v) % 2 ^ v = bits m (pos + u) v := by
  rw [bits_add, Nat.mul_add_mod, Nat.mod_eq_of_lt (bits_lt m (pos + u) v)]

/-- The upper bits of a bit field are the field that ends with them. -/
theorem bits_add_div (m : Memory) (pos u v : Nat) : bits m pos (u + v) / 2 ^ v = bits m pos u := by
  rw [bits_add, Nat.mul_add_div (Nat.two_pow_pos v), Nat.div_eq_of_lt (bits_lt m (pos + u) v),
    Nat.add_zero]

/-- The first `n` stream bits of a byte are its upper `n` bits (00_scope.md R9). -/
theorem bits_in_byte (m : Memory) (a : Nat) {n : Nat} (hn : n ≤ 8) :
    bits m (8 * a) n = (m.read a).toNat / 2 ^ (8 - n) := by
  induction n with
  | zero => exact (Nat.div_eq_of_lt (m.read a).isLt).symm
  | succ n ih =>
    have haddr : (8 * a + n) / 8 = a := by omega
    have hpos : 7 - (8 * a + n) % 8 = 7 - n := by omega
    have hexp : 8 - n = 7 - n + 1 := by omega
    have hnext : 8 - (n + 1) = 7 - n := by omega
    rw [bits_succ, ih (Nat.le_of_succ_le hn), streamBit, haddr, hpos, Nat.and_one_is_mod,
      Nat.shiftRight_eq_div_pow, hexp, pow_succ, ← Nat.div_div_eq_div_mul, hnext]
    exact Nat.div_add_mod _ 2

/-- The eight stream bits of a byte are the byte (00_scope.md R9). -/
theorem bits_eight (m : Memory) (a : Nat) : bits m (8 * a) 8 = (m.read a).toNat :=
  (bits_in_byte m a le_rfl).trans (Nat.div_one _)

/-- A byte field is the bit field of the same bytes (42_extract.md R140, R141). -/
theorem be_eq_bits (m : Memory) (off w : Nat) : be m off w = bits m (8 * off) (8 * w) := by
  induction w with
  | zero => rfl
  | succ w ih =>
    rw [be_succ, ih, Nat.mul_succ, bits_add, ← Nat.mul_add, bits_eight]
    rfl

/-- Settles O16, by `be_eq_bits`. -/
theorem byteFieldIsItsBitField : Obligations.ByteFieldIsItsBitField :=
  fun m off w _ _ => be_eq_bits m off w

/-- Settles O21: the field's 16 bits are cut after 10, and interval 26 before its last 10. -/
theorem ttoOverlapsTheLastInterval : Obligations.TtoOverlapsTheLastInterval := by
  intro m
  have hbits : be m 86 2 = bits m 688 (10 + 6) := be_eq_bits m 86 2
  refine ⟨hbits, ?_, ?_⟩
  · rw [hbits, bits_add_div]
    exact bits_add_mod m 684 4 10
  · rw [hbits, bits_add_mod]

/-! ### The commands with an operand range -/

/-- The first stream bit past a command's operand range, 0 for a command without one
(40_crc.md R106; 42_extract.md R144, R145). -/
def operandEnd : Instr → Nat
  | .crc off len => 8 * (off.toNat + len.toNat)
  | .extu off w => 8 * (off.toNat + w.toNat)
  | .extb pos w => pos.toNat + w.toNat
  | .matchScmp | .matchIdm | .decodeScmp | .decodeIdm => 0

/-- What a command with an operand range puts into `RESULT` on success, 0 for a command without one
(40_crc.md R106; 42_extract.md R144, R145). -/
def operandValue (i : Instr) (s : State) : Word :=
  match i with
  | .crc off len =>
    ofHalf (crcv (byteRange s.frame off.toNat (off.toNat + len.toNat)) (lowHalf s.crcPoly)
      (lowHalf s.crcInit) (lowHalf s.crcXorout))
  | .extu off w => word (be s.frame off.toNat w.toNat)
  | .extb pos w => word (bits s.frame pos.toNat w.toNat)
  | .matchScmp | .matchIdm | .decodeScmp | .decodeIdm => 0

/-- The three commands with an operand range differ in the range and the value alone
(42_extract.md R143). -/
theorem exec_of_writesResult {i : Instr} (hi : writesResult i = true) (hwf : i.wellFormed = true)
    (s : State) :
    exec i s = if 8 * availBytes s < operandEnd i then complete .rangeError s
      else complete .success (setResult (operandValue i s) s) := by
  have hbytes (n : Nat) : 8 * availBytes s < 8 * n ↔ availBytes s < n := by omega
  cases i with
  | crc off len =>
    rw [operandEnd, if_congr (hbytes _) rfl rfl]
    rfl
  | extu off w =>
    rw [operandEnd, if_congr (hbytes _) rfl rfl]
    exact execExtu_of_widthOk hwf s
  | extb pos w => exact execExtb_of_widthOk hwf s
  | matchScmp | matchIdm | decodeScmp | decodeIdm => cases hi

/-- A term that no word stands for does what its word would do (log 11). -/
theorem exec_of_not_wellFormed {i : Instr} (h : i.wellFormed = false) (s : State) :
    exec i s = complete .illegalCommand s := by
  cases i with
  | extu off w =>
    have hw : extuWidthOk w = false := h
    rw [exec_extu, execExtu, hw]
    rfl
  | extb pos w =>
    have hw : extbWidthOk w = false := h
    rw [exec_extb, execExtb, hw]
    rfl
  | crc | matchScmp | matchIdm | decodeScmp | decodeIdm => cases h

/-- An operand range inside the declared row is read there and nowhere else (42_extract.md R143). -/
theorem operandValue_congr {i : Instr} {s : State} {m : Memory}
    (hin : operandEnd i ≤ 8 * availBytes s) (h : AgreeBelow (availBytes s) s.frame m) :
    operandValue i { s with frame := m } = operandValue i s := by
  cases i with
  | crc off len =>
    have hend : off.toNat + len.toNat ≤ availBytes s := by simp only [operandEnd] at hin; omega
    simp only [operandValue, h.byteRange_eq hend]
  | extu off w =>
    have hend : off.toNat + w.toNat ≤ availBytes s := by simp only [operandEnd] at hin; omega
    simp only [operandValue, h.be_eq hend]
  | extb pos w => simp only [operandValue, h.bits_eq hin]
  | matchScmp | matchIdm | decodeScmp | decodeIdm => rfl

/-- Settles O20: the range check reads `BITLEN`, and only a success reads the frame. -/
theorem hostRangesReadTheDeclaredRowOnly : Obligations.HostRangesReadTheDeclaredRowOnly := by
  intro i s t m hi h hagree
  cases hwf : i.wellFormed with
  | false =>
    rw [exec_of_not_wellFormed hwf] at h ⊢
    cases h
    rfl
  | true =>
    rw [exec_of_writesResult hi hwf] at h ⊢
    split at h
    next hpast =>
      cases h
      exact if_pos hpast
    next hin =>
      cases h
      obtain hrow | herror := hagree
      · rw [if_neg (show ¬ 8 * availBytes { s with frame := m } < operandEnd i from hin),
          operandValue_congr (Nat.not_lt.mp hin) hrow]
        rfl
      · simp [OutcomeCode.code] at herror

/-! ### A command run again -/

/-- Two states are equal when they are but for `STATUS`, and `STATUS` agrees too. -/
theorem State.eq_of_status {s t : State} (hrest : { s with status := t.status } = t)
    (hstatus : s.status = t.status) : s = t := by
  rw [← hrest, ← hstatus]

/-- Ending again in the same outcome changes nothing. -/
theorem complete_finish (o : OutcomeCode) (s : State) : complete o (finish o s) = .next (finish o s) :=
  congrArg Host.Outcome.next (State.eq_of_status rfl (by apply status_ext <;> simp))

/-- Latching the word that stands in `CMD` with its `OP` in `LASTOP` changes nothing. -/
theorem latch_eq_self {w : Word} {s : State} (hcmd : s.cmd = w) (hop : statusLastop s.status = opField w) :
    latch w s = s := by
  subst hcmd
  exact State.eq_of_status rfl (by apply status_ext <;> simp [hop])

/-- A range command run again has the same range and the same value. -/
theorem exec_again_of_writesResult {i : Instr} (hi : writesResult i = true) {s t : State}
    (h : exec i s = .next t) : exec i t = .next t := by
  cases hwf : i.wellFormed with
  | false =>
    rw [exec_of_not_wellFormed hwf] at h ⊢
    cases h
    exact complete_finish _ s
  | true =>
    rw [exec_of_writesResult hi hwf] at h ⊢
    split at h
    next hpast =>
      cases h
      exact (if_pos hpast).trans (complete_finish _ s)
    next hin =>
      cases h
      have hvalue : operandValue i (finish .success (setResult (operandValue i s) s)) =
          operandValue i s := by cases i <;> rfl
      rw [hvalue]
      exact (if_neg hin).trans (complete_finish _ (setResult (operandValue i s) s))

/-- No decode changes the parameters (10_state.md R43). -/
theorem decodeFrame_params {f : FrameSpec} {en : Bool} {ex : Memory → List Word} {s t : State}
    (h : decodeFrame f en ex s = .next t) : t.params = s.params := by
  obtain ⟨-, rfl⟩ | ⟨-, -, -, rfl⟩ | ⟨-, -, rfl⟩ := decodeFrame_cases h
  · rfl
  · rfl
  · rfl

/-- A decode run again clears what it left and writes it anew. -/
theorem decodeFrame_again {f : FrameSpec} {en : Bool} {ex : Memory → List Word} {s t : State}
    (h : decodeFrame f en ex s = .next t) : decodeFrame f en ex t = .next t := by
  obtain ⟨hframe, hbitlen, -⟩ := decodeFrame_keeps h
  have hmatch : matchFrame f t = matchFrame f s := matchFrame_congr hbitlen (by rw [hframe])
  obtain ⟨hm, rfl⟩ | ⟨hm, hen, hagree, rfl⟩ | ⟨hm, hagree, rfl⟩ := decodeFrame_cases h
  · rw [decodeFrame_unmatched f en ex _ (hmatch ▸ hm), hmatch]
    refine congrArg _ (State.eq_of_status ?_ ?_)
    · simp only [finish, decodePrologue, setMic, setDiagnostics, setFields]
    · apply status_ext <;> simp
  · rw [decodeFrame_matched f en ex _ (hmatch.trans hm), hframe, if_pos (by simp [hen, hagree])]
    refine congrArg _ (State.eq_of_status ?_ ?_)
    · simp only [finish, validated, writeDiagnostics, decodePrologue, setMic, setDiagnostics, setFields]
    · apply status_ext <;> simp [validated]
  · rw [decodeFrame_matched f en ex _ (hmatch.trans hm), hframe, if_neg (by simpa using hagree)]
    refine congrArg _ (State.eq_of_status ?_ ?_)
    · simp only [finish, validated, writeDiagnostics, decodePrologue, setMic, setDiagnostics, setFields]
    · apply status_ext <;> simp [validated]

/-- No command depends on what the same command left (10_state.md R43, R44). -/
theorem exec_again {i : Instr} {s t : State} (h : exec i s = .next t) : exec i t = .next t := by
  cases i with
  | crc | extu | extb => exact exec_again_of_writesResult rfl h
  | matchScmp | matchIdm =>
    cases h
    exact complete_finish _ s
  | decodeScmp =>
    obtain ⟨-, -, hcfg, -⟩ := decodeFrame_keeps h
    rw [exec_decodeScmp, execDecodeScmp, hcfg]
    exact decodeFrame_again h
  | decodeIdm =>
    obtain ⟨-, -, hcfg, -⟩ := decodeFrame_keeps h
    rw [exec_decodeIdm, execDecodeIdm, hcfg, decodeFrame_params h]
    exact decodeFrame_again h

theorem command_again {w : Word} {s t : State} (h : command w s = .next t) : command w t = .next t := by
  obtain ⟨hcmd, hop⟩ := (CommandEffect.of_command h).latched
  cases hw : decode w with
  | ok i =>
    rw [command_of_decode hw] at h ⊢
    rw [latch_eq_self hcmd hop]
    exact exec_again h
  | error e =>
    rw [command_of_reject hw] at h ⊢
    rw [latch_eq_self hcmd hop]
    cases h
    exact complete_finish _ _

/-- Writing a frame word twice is writing it once (20_memory.md R62). -/
theorem Memory.writeWord_writeWord {m : Memory} (hm : m.wf = true) {j : Nat} (hj : j < 23) (v : Word) :
    (m.writeWord j v).writeWord j v = m.writeWord j v := by
  have hwf := Memory.wf_writeWord m j v hm hj
  refine Memory.ext_of_wf (Memory.wf_writeWord _ j v hwf hj) hwf fun a _ => ?_
  by_cases ha : a < 4 * j ∨ 4 * j + 4 ≤ a
  · exact Memory.read_writeWord_of_outside _ v ha
  · rw [Memory.read_writeWord, Memory.read_writeWord]
    grind

/-- Settles O46: a command by `command_again`, a frame word by its bytes, any other register by its bits. -/
theorem hostWritesAreIdempotent : Obligations.HostWritesAreIdempotent := by
  intro r v s t hwf h
  cases r with
  | cmd => exact command_again h
  | fbw j =>
    cases h
    have hframe := Memory.writeWord_writeWord hwf j.isLt v
    exact congrArg (fun m => Host.Outcome.next { s with frame := m }) hframe
  | _ => cases h; rfl

end Sys2Proof.Machine
end

section
/-! SUPPORT. Proofs of the statements about the two decoders and the record (43_record.md, 44_decode.md):
what a decode leaves when it fails and when enforcement is off, single-bit errors, the widths of the fields,
the reserved nibble, and the SCM+ record; the statements O29, O32, O33, O34, O35, O22, O54 and O57. -/

namespace Sys2Proof.Machine

open Sys2Proof Sys2Proof.Laws

/-! ### A decode that fails, and one that cannot -/

/-- A decode that does not succeed leaves the prologue's zeros in the fields and `MIC`
(44_decode.md R181). -/
theorem noRecordLeft_of_decodeFrame {f : FrameSpec} {en : Bool} {ex : Memory → List Word} {s t : State}
    (h : decodeFrame f en ex s = .next t) (hout : statusOutcome t.status ≠ 1) : NoRecordLeft t := by
  obtain ⟨-, rfl⟩ | ⟨-, -, -, rfl⟩ | ⟨-, -, rfl⟩ := decodeFrame_cases h
  · simp [NoRecordLeft, fieldFile_nil]
  · simp [NoRecordLeft, validated, fieldFile_nil]
  · simp [OutcomeCode.code] at hout

/-- A decode that stops in `MATCHING` leaves the prologue's zeros in the diagnostic registers
(10_state.md R32). -/
theorem diagnostics_of_decodeFrame_mismatch {f : FrameSpec} {en : Bool} {ex : Memory → List Word}
    {s t : State} (h : decodeFrame f en ex s = .next t)
    (hout : statusOutcome t.status = 2 ∨ statusOutcome t.status = 3) :
    t.crcRx = 0 ∧ t.crcCalc = 0 ∧ t.sncrcRx = 0 ∧ t.sncrcCalc = 0 := by
  obtain ⟨-, rfl⟩ | ⟨-, -, -, rfl⟩ | ⟨-, -, rfl⟩ := decodeFrame_cases h
  · simp
  · simp [OutcomeCode.code] at hout
  · simp [OutcomeCode.code] at hout

/-- The two decodes are the dispatcher, each with its own format. -/
theorem exec_of_isDecode {i : Instr} (hi : isDecode i = true) (s : State) :
    ∃ f en ex, exec i s = decodeFrame f en ex s := by
  obtain rfl | rfl : i = .decodeScmp ∨ i = .decodeIdm := by simpa [isDecode] using hi
  · exact ⟨_, _, _, rfl⟩
  · exact ⟨_, _, _, rfl⟩

/-- Settles O29, by what the dispatcher leaves. -/
theorem failedDecodeLeavesNoRecord : Obligations.FailedDecodeLeavesNoRecord := by
  intro i s hi
  obtain ⟨f, en, ex, hexec⟩ := exec_of_isDecode hi s
  obtain ⟨o, u, h⟩ := decodeFrame_completes f en ex s
  exact ⟨_, hexec.trans h, noRecordLeft_of_decodeFrame h, diagnostics_of_decodeFrame_mismatch h⟩

/-- With enforcement off a matching row decodes whatever its checksums (44_decode.md R184). -/
theorem decodeFrame_unenforced {f : FrameSpec} {ex : Memory → List Word} {s : State}
    (hm : matchFrame f s = .matched) :
    decodeFrame f false ex s =
      .next (finish .success (setMic false (setFields (ex s.frame) (validated f s)))) :=
  decodeFrame_matched f false ex s hm

/-- Settles O32: the fields that copy checksums hold what the diagnostic registers hold. -/
theorem enforcementOffNeverFails : Obligations.EnforcementOffNeverFails := by
  refine fun s => ⟨fun hen hmatch => ?_, fun hen hmatch => ?_⟩
  · obtain ⟨u, hu, hone⟩ := hmatch
    have hm : matchFrame scmpSpec s = .matched := matchFrame_of_complete_success hu hone
    have hoff : scmpCrcEn s.cfg = false := hen
    rw [exec_decodeScmp, execDecodeScmp, hoff]
    refine ⟨_, decodeFrame_unenforced hm, ?_⟩
    simp [OutcomeCode.code, validated, fieldFile_getElem, scmpFields]
  · obtain ⟨u, hu, hone⟩ := hmatch
    have hm : matchFrame (idmSpec s.params) s = .matched := matchFrame_of_complete_success hu hone
    have hoff : idmCrcEn s.cfg = false := hen
    have hrx : ofHalf (receivedCrc s.frame (idmSpec s.params).crc) = word (be s.frame 90 2) :=
      ofHalf_be_two s.frame 90
    have hsnrx : ofHalf (snReceived (idmSpec s.params) s.frame) = word (be s.frame 88 2) :=
      ofHalf_be_two s.frame 88
    rw [exec_decodeIdm, execDecodeIdm, hoff]
    refine ⟨_, decodeFrame_unenforced hm, ?_⟩
    simp [OutcomeCode.code, validated, fieldFile_getElem, idmFields, hrx, hsnrx]

/-! ### Single-bit errors -/

/-- A byte written inside a range is the byte set in its sequence. -/
theorem byteRange_write_inside (m : Memory) {lo hi a : Nat} (b : Byte) (hlo : lo ≤ a) :
    byteRange (m.write a b) lo hi = (byteRange m lo hi).set (a - lo) b := by
  refine List.ext_getElem (by simp) fun i _ _ => ?_
  simp only [byteRange_getElem, Memory.read_write, List.getElem_set]
  exact if_congr (by omega) rfl rfl

/-- A byte written outside a range leaves its sequence. -/
theorem byteRange_write_outside (m : Memory) {lo hi a : Nat} (b : Byte) (ha : a < lo ∨ hi ≤ a) :
    byteRange (m.write a b) lo hi = byteRange m lo hi :=
  byteRange_congr fun i _ _ => by rw [Memory.read_write, if_neg (by omega)]

theorem be_two (m : Memory) (off : Nat) :
    be m off 2 = 256 * (m.read off).toNat + (m.read (off + 1)).toNat := by
  simp [be_succ]

/-- A changed byte of a received checksum changes the checksum (44_decode.md section 2). -/
theorem receivedCrc_write_ne {m : Memory} {c : CrcSpec} {a : Nat} {b : Byte} (hb : b ≠ m.read a)
    (ha : a = c.fieldOff ∨ a = c.fieldOff + 1) : receivedCrc (m.write a b) c ≠ receivedCrc m c := by
  intro h
  have hne : b.toNat ≠ (m.read a).toNat := fun he => hb (BitVec.eq_of_toNat_eq he)
  have hlt (m : Memory) : be m c.fieldOff 2 < 2 ^ 16 := be_lt m c.fieldOff 2
  have hbe : be (m.write a b) c.fieldOff 2 = be m c.fieldOff 2 := by
    have hn := congrArg BitVec.toNat h
    rwa [receivedCrc, receivedCrc, BitVec.toNat_ofNat, BitVec.toNat_ofNat, Nat.mod_eq_of_lt (hlt _),
      Nat.mod_eq_of_lt (hlt _)] at hn
  rw [be_two, be_two, Memory.read_write, Memory.read_write] at hbe
  obtain rfl | rfl := ha
  · simp at hbe
    omega
  · simp at hbe
    omega

/-- When a checksum covers the bytes up to the field that carries it, changing any one byte of either
makes an agreement end: the computed checksum changes (40_crc.md R108), or the received one does. -/
theorem checksum_disagrees_after_write {m : Memory} {c : CrcSpec} {lo a : Nat} {b : Byte}
    (hranges : c.ranges = [(lo, c.fieldOff)]) (hpoly : c.poly.getLsbD 0 = true) (hlo : lo ≤ a)
    (hhi : a < c.fieldOff + 2) (hb : b ≠ m.read a) (h : computedCrc m c = receivedCrc m c) :
    computedCrc (m.write a b) c ≠ receivedCrc (m.write a b) c := by
  have hcomputed (m : Memory) : computedCrc m c =
      crc16 (byteRange m lo c.fieldOff) c.poly c.init ^^^ c.xorout := by
    simp [computedCrc, crcv, hranges]
  by_cases ha : a < c.fieldOff
  · have hreceived : receivedCrc (m.write a b) c = receivedCrc m c := by
      rw [receivedCrc, receivedCrc, be_congr (m' := m) fun i _ _ => ?_]
      rw [Memory.read_write, if_neg (by omega)]
    rw [hreceived, ← h, hcomputed, hcomputed, byteRange_write_inside m b hlo]
    have hlen : a - lo < (byteRange m lo c.fieldOff).length := by
      rw [byteRange_length]
      omega
    have hbyte : b ≠ (byteRange m lo c.fieldOff).getD (a - lo) 0 := by
      rw [List.getD_eq_getElem _ _ hlen, byteRange_getElem, Nat.add_sub_cancel' hlo]
      exact hb
    exact fun he => crc16_set_ne hpoly hlen hbyte c.init ((BitVec.xor_left_inj _).mp he)
  · have hsame : computedCrc (m.write a b) c = computedCrc m c := by
      rw [hcomputed, hcomputed, byteRange_write_outside m b (.inr (Nat.not_lt.mp ha))]
    rw [hsame, h]
    exact (receivedCrc_write_ne hb (by omega)).symm

/-- A decode that ends in `SUCCESS` has found the row to match (44_decode.md R184). -/
theorem matchFrame_of_decodeFrame_succeeded {f : FrameSpec} {en : Bool} {ex : Memory → List Word}
    {s t : State} (h : decodeFrame f en ex s = .next t) (hout : statusOutcome t.status = 1) :
    matchFrame f s = .matched := by
  by_contra hm
  rw [decodeFrame_unmatched f en ex s hm] at h
  cases h
  rw [finish_status, statusOutcome_finishStatus] at hout
  exact MatchResult.outcome_code_ne_one hm hout

/-- The matcher reads no frame byte past the preamble (41_match.md R122). -/
theorem matchFrame_write (f : FrameSpec) (s : State) {a : Nat} (b : Byte) (ha : f.preamble.length ≤ a) :
    matchFrame f { s with frame := s.frame.write a b } = matchFrame f s :=
  matchFrame_congr rfl (byteRange_write_outside s.frame b (.inr ha))

/-- A frame accepted under enforcement, with one bit inverted past its preamble and in the packet checksum
or what it covers, ends in `INTEGRITY_FAILURE` (44_decode.md sections 2 and 3). -/
theorem decodeFrame_catches_flip {f : FrameSpec} {ex : Memory → List Word} {s t : State} {lo a k : Nat}
    (hranges : f.crc.ranges = [(lo, f.crc.fieldOff)]) (hpoly : f.crc.poly.getLsbD 0 = true)
    (hpre : f.preamble.length ≤ a) (hlo : lo ≤ a) (hhi : a < f.crc.fieldOff + 2) (hk : k < 8)
    (h : decodeFrame f true ex s = .next t) (hout : statusOutcome t.status = 1) :
    ∃ t', decodeFrame f true ex (s.flipBit a k) = .next t' ∧ statusOutcome t'.status = 4 ∧
      NoRecordLeft t' := by
  obtain ⟨hagree, -⟩ := decodeFrame_succeeded h hout
  obtain ⟨hcrc, -⟩ := checksumsAgree_iff.mp (hagree rfl)
  have hm : matchFrame f (s.flipBit a k) = .matched :=
    (matchFrame_write f s _ hpre).trans (matchFrame_of_decodeFrame_succeeded h hout)
  have hdisagree : checksumsAgree f (s.flipBit a k).frame = false :=
    Bool.eq_false_iff.mpr fun he => checksum_disagrees_after_write hranges hpoly hlo hhi
      (xor_bit_ne (s.frame.read a) hk) hcrc (checksumsAgree_iff.mp he).1
  obtain ⟨o, u, ht⟩ := decodeFrame_completes f true ex (s.flipBit a k)
  have hfour : statusOutcome (finish o u).status = 4 := by
    rw [statusOutcome_of_enforced hm ht, hdisagree]
    rfl
  exact ⟨_, ht, hfour, noRecordLeft_of_decodeFrame ht (by rw [hfour]; decide)⟩

/-- Settles O33: SCM+'s checksum covers bytes 2 to 13 and stands in bytes 14 and 15. -/
theorem scmpSingleBitErrorIsCaught : Obligations.ScmpSingleBitErrorIsCaught := by
  intro s t a k hlo hhi hk hen h hout
  have hon : scmpCrcEn s.cfg = true := hen
  have hflip : exec .decodeScmp (s.flipBit a k) = decodeFrame scmpSpec true scmpFields (s.flipBit a k) :=
    congrArg (fun en => decodeFrame scmpSpec en scmpFields (s.flipBit a k)) hon
  rw [exec_decodeScmp, execDecodeScmp, hon] at h
  rw [hflip]
  exact decodeFrame_catches_flip (lo := 2) rfl (by decide) hlo hlo hhi hk h hout

/-- Settles O34: by default IDM's packet checksum covers bytes 7 to 89 and stands in bytes 90 and 91. -/
theorem idmSingleBitErrorIsCaught : Obligations.IdmSingleBitErrorIsCaught := by
  intro s t a k hlo hhi hk hen hfrom hto h hout
  have hon : idmCrcEn s.cfg = true := hen
  have hflip : exec .decodeIdm (s.flipBit a k) =
      decodeFrame (idmSpec s.params) true (idmFields s.params) (s.flipBit a k) :=
    congrArg (fun en => decodeFrame (idmSpec s.params) en (idmFields s.params) (s.flipBit a k)) hon
  have hranges : (idmSpec s.params).crc.ranges = [(7, (idmSpec s.params).crc.fieldOff)] := by
    simp [idmSpec, hfrom, hto]
  have hpoly : (idmSpec s.params).crc.poly.getLsbD 0 = true := by simp [idmSpec]
  rw [exec_decodeIdm, execDecodeIdm, hon] at h
  rw [hflip]
  exact decodeFrame_catches_flip hranges hpoly hlo hlo hhi hk h hout

/-! ### The values of the fields -/

/-- A decode leaves the extracted fields or none (44_decode.md R181, R184). -/
theorem fields_of_decodeFrame {f : FrameSpec} {en : Bool} {ex : Memory → List Word} {s t : State}
    (h : decodeFrame f en ex s = .next t) :
    t.fields = fieldFile [] ∨ t.fields = fieldFile (ex s.frame) := by
  obtain ⟨-, rfl⟩ | ⟨-, -, -, rfl⟩ | ⟨-, -, rfl⟩ := decodeFrame_cases h
  · exact .inl rfl
  · exact .inl rfl
  · exact .inr rfl

/-- A byte field in a register stays below its width (42_extract.md R140). -/
theorem word_be_lt (m : Memory) (off w : Nat) : (word (be m off w)).toNat < 256 ^ w :=
  (BitVec.toNat_ofNat _ _).trans_lt ((Nat.mod_le _ _).trans_lt (be_lt m off w))

theorem ofHalf_lt (h : Half) : (ofHalf h).toNat < 2 ^ 16 := by
  have hlt := h.isLt
  rw [ofHalf, BitVec.toNat_setWidth]
  omega

/-- An interval is a 14-bit value (42_extract.md R146). -/
theorem idmInterval_lt (m : Memory) (j : Nat) : (idmInterval m j).toNat < 2 ^ 14 :=
  (BitVec.toNat_ofNat _ _).trans_lt ((Nat.mod_le _ _).trans_lt (bits_lt m _ 14))

/-- Past its eleven single fields the IDM file holds intervals, and then nothing (42_extract.md R146). -/
theorem idmFields_getD_lt (p : Params) (m : Memory) {k : Nat} (hk : 11 ≤ k) :
    ((idmFields p m).getD k 0).toNat < 2 ^ 14 := by
  rw [idmFields, List.getD_append_right _ _ _ _ hk]
  generalize k - _ = j
  by_cases hj : j < 27
  · rw [List.getD_eq_getElem _ _ (by simpa using hj), List.getElem_map]
    exact idmInterval_lt m _
  · rw [List.getD_eq_default _ _ (by simpa using hj)]
    decide

/-- The endpoint type in a register is the low nibble of byte 8 (42_extract.md R147). -/
theorem endpointType_toNat (m : Memory) : (word (be m 8 1 &&& 0x0F)).toNat = (m.read 8).toNat % 16 := by
  rw [be_one_and_lowNibble, BitVec.toNat_ofNat]
  omega

/-- Settles O35, field by field. -/
theorem fieldWidthsHold : Obligations.FieldWidthsHold := by
  refine ⟨fun s t h => ?_, fun s t h => ?_⟩
  · obtain ht | ht := fields_of_decodeFrame h
    · simp [ht, fieldFile_getElem]
    · simp only [ht, fieldFile_getElem, Fin.getElem_fin]
      exact ⟨word_be_lt _ 2 1, word_be_lt _ 3 1, word_be_lt _ 12 2, ofHalf_lt _, ofHalf_lt _,
        fun k hk => List.getD_eq_default _ _ hk⟩
  · obtain ht | ht := fields_of_decodeFrame h
    · simp [ht, fieldFile_getElem]
    · have htype : (word (be s.frame 8 1 &&& 0x0F)).toNat < 2 ^ 4 :=
        (endpointType_toNat s.frame).trans_lt (Nat.mod_lt _ (by decide))
      simp only [ht, fieldFile_getElem, Fin.getElem_fin]
      exact ⟨word_be_lt _ 7 1, htype, word_be_lt _ 13 1, word_be_lt _ 14 1, word_be_lt _ 28 3,
        word_be_lt _ 25 3, word_be_lt _ 88 2, word_be_lt _ 90 2, word_be_lt _ _ 2,
        fun k hk => idmFields_getD_lt _ _ hk⟩

/-! ### The reserved nibble -/

theorem be_write_outside (m : Memory) {off w a : Nat} (b : Byte) (ha : a < off ∨ off + w ≤ a) :
    be (m.write a b) off w = be m off w :=
  be_congr fun i _ _ => by rw [Memory.read_write, if_neg (by omega)]

theorem bits_write_outside (m : Memory) {pos w a : Nat} (b : Byte) (ha : 8 * a + 8 ≤ pos) :
    bits (m.write a b) pos w = bits m pos w :=
  bits_congr fun i _ _ => by rw [Memory.read_write, if_neg (by omega)]

/-- Of byte 8 the IDM fields hold the low nibble alone, when the transmit time offset does not cover it
(42_extract.md R147). -/
theorem idmFields_write_eight {p : Params} {m : Memory} {b : Byte} (hlo : p.ttoOffset ≠ 8)
    (hhi : p.ttoOffset + 1 ≠ 8) (hb : b.toNat % 16 = (m.read 8).toNat % 16) :
    idmFields p (m.write 8 b) = idmFields p m := by
  have htype : be (m.write 8 b) 8 1 &&& 0x0F = be m 8 1 &&& 0x0F := by
    rw [be_one_and_lowNibble, be_one_and_lowNibble, Memory.read_write, if_pos rfl, hb]
  have hintervals : (List.range 27).map (idmInterval (m.write 8 b)) =
      (List.range 27).map (idmInterval m) :=
    List.map_congr_left fun j _ => congrArg word (bits_write_outside m b (by omega))
  have hbe {off w : Nat} (ho : 8 < off ∨ off + w ≤ 8) : be (m.write 8 b) off w = be m off w :=
    be_write_outside m b ho
  rw [idmFields, idmFields, htype, hintervals, hbe (off := p.ttoOffset) (by omega),
    hbe (off := 7) (by decide), hbe (off := 9) (by decide), hbe (off := 13) (by decide),
    hbe (off := 14) (by decide), hbe (off := 25) (by decide), hbe (off := 28) (by decide),
    hbe (off := 34) (by decide), hbe (off := 88) (by decide), hbe (off := 90) (by decide)]

/-- Settles O22: with enforcement off a matching row decodes, and the fields hold the low nibble alone. -/
theorem reservedNibbleIsMaskedOff : Obligations.ReservedNibbleIsMaskedOff := by
  intro s t b hen hlo hhi hb h hout
  have hoff : idmCrcEn s.cfg = false := hen
  rw [exec_decodeIdm, execDecodeIdm, hoff] at h
  have hm := matchFrame_of_decodeFrame_succeeded h hout
  have hm' : matchFrame (idmSpec s.params) { s with frame := s.frame.write 8 b } = .matched :=
    (matchFrame_write (idmSpec s.params) s b (by simp [idmSpec])).trans hm
  obtain ⟨-, rfl⟩ := decodeFrame_succeeded h hout
  refine ⟨?_, ?_⟩
  · exact (congrArg BitVec.toNat (fieldFile_getElem _ 2 (by decide))).trans (endpointType_toNat s.frame)
  · refine ⟨_, (congrArg (decodeFrame _ · _ _) hoff).trans (decodeFrame_unenforced hm'), ?_⟩
    simp [validated, idmFields_write_eight hlo hhi hb]

/-! ### The record -/

/-- Settles O54: the run of the dispatcher that succeeded, then the entries of its field file. -/
theorem scmpRecordContents : Obligations.ScmpRecordContents := by
  intro s t hc hout
  have hdecode : decode 0x50000000 = .ok .decodeScmp := decode_of_rowMatches (k := 5) rfl
  have hrun : execDecodeScmp (latch 0x50000000 s) = .next t :=
    (command_of_decode hdecode s).symm.trans hc
  obtain ⟨hagree, ht⟩ := decodeFrame_succeeded hrun hout
  obtain ⟨hcmd, hop⟩ := (CommandEffect.of_command hc).latched
  have hrx : ofHalf (receivedCrc s.frame scmpSpec.crc) = word (be s.frame 14 2) :=
    ofHalf_be_two s.frame 14
  have hcalc : ofHalf (computedCrc s.frame scmpSpec.crc) =
      (crcv (byteRange s.frame 2 14) 0x1021 0xFFFF 0xFFFF).setWidth 32 :=
    congrArg ofHalf (computedCrc_scmp s.frame)
  have hfields : t.fields = fieldFile (scmpFields s.frame) := by simp [ht]
  have hframe : t.frame = s.frame := by simp [ht, validated]
  have hmic : statusMic t.status = s.cfg.getLsbD 0 := by simp [ht, scmpCrcEn]
  have hfmt : t.cmd.extractLsb' 0 4 = 0 := by rw [hcmd]; rfl
  refine ⟨?_, fun hen => ?_⟩
  · rw [record_eq_scmpRecord hop hout hfmt, scmpRecord, micEntry, hmic, hframe]
    simp [fieldValue_of_fields_eq hfields, scmpFields, hrx, hcalc]
  · have hcrc := checksumsAgree_scmp_iff.mp (hagree hen)
    rw [← hcalc, ← hrx]
    exact congrArg ofHalf hcrc

/-- Settles O57: a record would make the word one of the two `DECODE` words. -/
theorem recordEndsAtTheNextCommand : Obligations.RecordEndsAtTheNextCommand := by
  intro w s hn
  obtain ⟨t, ht, heffect⟩ := command_effect w s
  refine ⟨t, ht, ?_, (heffect.decode_registers_kept hn).1⟩
  by_contra hrecord
  obtain ⟨hop, hout⟩ := decode_succeeded_of_record (Option.isSome_iff_ne_none.mpr hrecord)
  obtain rfl | rfl := heffect.decode_word_of_success hop hout
  · cases hn .decodeScmp (decode_of_encode_eq rfl rfl)
  · cases hn .decodeIdm (decode_of_encode_eq rfl rfl)

end Sys2Proof.Machine
end

section
/-! SUPPORT. Proofs of the statements about the assembler and the worked examples (30_encoding.md,
40_crc.md, 42_extract.md, 44_decode.md): what the lines stand for, loading a row, and commands on a row whose
bytes are known; the statements O58, O60, O59 and O31. -/

namespace Sys2Proof.Machine

open Sys2Proof

/-! ### Command lines -/

/-- Operands that fit their fields are read back from the assembled word (30_encoding.md R93). -/
theorem toNat_ofNat_of_lt {n v : Nat} (h : v < 2 ^ n) : (BitVec.ofNat n v).toNat = v :=
  (BitVec.toNat_ofNat v n).trans (Nat.mod_eq_of_lt h)

/-- Settles O58: a line in range is its instruction's encoding, which decodes to it. -/
theorem assembledCommandsDecode : Obligations.AssembledCommandsDecode := by
  refine ⟨fun base off len => ?_, fun base off n => ?_, fun base pos n => ?_,
    fun _ => ⟨rfl, rfl, rfl, rfl⟩, fun base v => ?_⟩
  · split
    next h =>
      obtain ⟨hoff, hlen⟩ := h
      exact ⟨_, if_pos ⟨hoff, hlen⟩, _, _, decode_encode rfl, toNat_ofNat_of_lt hoff,
        toNat_ofNat_of_lt hlen⟩
    next h => exact if_neg h
  · split
    next h =>
      obtain ⟨hoff, hlo, hhi⟩ := h
      have hn : (BitVec.ofNat 3 n).toNat = n := toNat_ofNat_of_lt (by omega)
      have hwf : (Instr.extu (BitVec.ofNat 8 off) (BitVec.ofNat 3 n)).wellFormed = true :=
        extuWidthOk_iff.mpr (hn.symm ▸ ⟨hlo, hhi⟩)
      exact ⟨_, if_pos ⟨hoff, hlo, hhi⟩, _, _, decode_encode hwf, toNat_ofNat_of_lt hoff, hn⟩
    next h => exact if_neg h
  · split
    next h =>
      obtain ⟨hpos, hlo, hhi⟩ := h
      have hn : (BitVec.ofNat 6 n).toNat = n := toNat_ofNat_of_lt (by omega)
      have hwf : (Instr.extb (BitVec.ofNat 12 pos) (BitVec.ofNat 6 n)).wellFormed = true :=
        extbWidthOk_iff.mpr (hn.symm ▸ ⟨hlo, hhi⟩)
      exact ⟨_, if_pos ⟨hpos, hlo, hhi⟩, _, _, decode_encode hwf, toNat_ofNat_of_lt hpos, hn⟩
    next h => exact if_neg h
  · refine (if_pos v.isLt).trans ?_
    rw [word, BitVec.ofNat_toNat, BitVec.setWidth_eq]
    rfl

/-- Settles O60: `crcparams` is three writes of words that fit, the others are their expansions. -/
theorem pseudoInstructionsExpand : Obligations.PseudoInstructionsExpand := by
  refine fun base => ⟨fun p i x => ?_, fun _ => rfl, fun _ => rfl, fun _ => rfl, rfl⟩
  refine (if_pos ⟨p.isLt, i.isLt, x.isLt⟩).trans ?_
  simp only [word, BitVec.ofNat_toNat, BitVec.setWidth_eq]
  rfl

/-! ### Loading a row -/

/-- Byte `a` of a row, 0 past its end (30_encoding.md R95). -/
def rowByte (row : List Nat) (a : Nat) : Byte := BitVec.ofNat 8 (row.getD a 0)

/-- The frame words that a row covers, wholly or in part (30_encoding.md R95). -/
def rowWords (row : List Nat) : List (Fin 23) :=
  (List.finRange 23).filter fun j => decide (4 * j.val < row.length)

/-- The host writes of a row's words (30_encoding.md R95). -/
def rowWrites (base : Nat) (row : List Nat) (js : List (Fin 23)) : List HostAccess :=
  js.map fun j => asmWrite base (.fbw j) (rowWord row j.val)

/-- The frame buffer after a row's words are written one after the other (20_memory.md R62). -/
def writeRow (row : List Nat) (js : List (Fin 23)) (m : Memory) : Memory :=
  js.foldl (fun m j => m.writeWord j.val (rowWord row j.val)) m

/-- The bytes of a word, the first the most significant (20_memory.md R62). -/
theorem extractLsb'_bytes (b c d e : Byte) :
    (b ++ c ++ d ++ e : Word).extractLsb' 24 8 = b ∧ (b ++ c ++ d ++ e : Word).extractLsb' 16 8 = c ∧
      (b ++ c ++ d ++ e : Word).extractLsb' 8 8 = d ∧ (b ++ c ++ d ++ e : Word).extractLsb' 0 8 = e := by
  refine ⟨?_, ?_, ?_, extractLsb'_append_low _ _⟩
  · exact (extractLsb'_append_high (start := 16) _ _).trans
      ((extractLsb'_append_high (start := 8) _ _).trans
        ((extractLsb'_append_high (start := 0) _ _).trans BitVec.extractLsb'_eq_self))
  · exact (extractLsb'_append_high (start := 8) _ _).trans
      ((extractLsb'_append_high (start := 0) _ _).trans (extractLsb'_append_low _ _))
  · exact (extractLsb'_append_high (start := 0) _ _).trans (extractLsb'_append_low _ _)

/-- A word of the row stores the row's bytes at its four addresses (20_memory.md R62). -/
theorem read_writeWord_rowWord (m : Memory) (row : List Nat) (j a : Nat) :
    (m.writeWord j (rowWord row j)).read a = if a / 4 = j then rowByte row a else m.read a := by
  obtain ⟨h0, h1, h2, h3⟩ :
      (rowWord row j).extractLsb' 24 8 = rowByte row (4 * j) ∧
      (rowWord row j).extractLsb' 16 8 = rowByte row (4 * j + 1) ∧
      (rowWord row j).extractLsb' 8 8 = rowByte row (4 * j + 2) ∧
      (rowWord row j).extractLsb' 0 8 = rowByte row (4 * j + 3) := extractLsb'_bytes _ _ _ _
  have hin : a / 4 = j ↔ a = 4 * j ∨ a = 4 * j + 1 ∨ a = 4 * j + 2 ∨ a = 4 * j + 3 := by omega
  by_cases ha : a / 4 = j
  · rw [if_pos ha, Memory.read_writeWord]
    obtain rfl | rfl | rfl | rfl := hin.mp ha
    · simpa using h0
    · simpa using h1
    · simpa using h2
    · simpa using h3
  · rw [if_neg ha, Memory.read_writeWord_of_outside m _ (by omega)]

theorem read_writeRow (row : List Nat) (js : List (Fin 23)) (m : Memory) (a : Nat) :
    (writeRow row js m).read a = if ∃ j ∈ js, a / 4 = j.val then rowByte row a else m.read a := by
  induction js generalizing m with
  | nil => simp [writeRow]
  | cons j js ih =>
    have hcons : (∃ i ∈ j :: js, a / 4 = i.val) ↔ (∃ i ∈ js, a / 4 = i.val) ∨ a / 4 = j.val := by
      simp [or_comm]
    rw [writeRow, List.foldl_cons, ← writeRow, ih, read_writeWord_rowWord, if_congr hcons rfl rfl, ite_or]

/-- The words that a row covers are those that begin inside it. -/
theorem read_writeRow_rowWords {row : List Nat} (hlen : row.length ≤ 92) (m : Memory) (a : Nat) :
    (writeRow row (rowWords row) m).read a =
      if 4 * (a / 4) < row.length then rowByte row a else m.read a := by
  rw [read_writeRow]
  refine if_congr ⟨?_, fun h => ?_⟩ rfl rfl
  · rintro ⟨j, hj, ha⟩
    simpa [rowWords, ha] using hj
  · exact ⟨⟨a / 4, by omega⟩, by simpa [rowWords] using h, rfl⟩

/-- The writes of a row's words run one a step and change the frame buffer alone (20_memory.md R62, R72). -/
theorem run_rowWrites (row : List Nat) (js : List (Fin 23)) (rest : List HostAccess) (n : Nat) {s : State}
    (hp : paramsOk s.params = true) (hpend : s.pending = rowWrites s.params.base row js ++ rest) :
    Host.Core.run core (js.length + n) s =
      Host.Core.run core n { s with pending := rest, frame := writeRow row js s.frame } := by
  induction js generalizing s with
  | nil =>
    rw [List.length_nil, Nat.zero_add, writeRow, List.foldl_nil, ← (show s.pending = rest from hpend)]
  | cons j js ih =>
    have hstep : step s = .next { s with
        pending := rowWrites s.params.base row js ++ rest
        frame := s.frame.writeWord j.val (rowWord row j.val) } :=
      step_of_pending_write (r := .fbw j) hp hpend rfl
    rw [List.length_cons, Nat.succ_add, run_succ_of_step _ hstep]
    exact ih hp rfl

/-- An `ldrow` line that assembles is the writes of its row's words and then of `BITLEN`
(30_encoding.md R95). -/
theorem asmLdrow_eq_ok {base n : Nat} {row : List Nat} {l : List HostAccess}
    (h : assemble base (.ldrow n row) = .ok l) :
    row.length ≤ 92 ∧ (∀ b ∈ row, b < 256) ∧
      l = rowWrites base row (rowWords row) ++ [asmWrite base .bitlen (word n)] := by
  have hline : inRange (n < 2 ^ 32 ∧ row.length ≤ Config.fbBytes ∧ ∀ b ∈ row, b < 256)
      (rowWrites base row (rowWords row) ++ [asmWrite base .bitlen (word n)]) = .ok l := h
  unfold inRange at hline
  split at hline
  next hin =>
    obtain ⟨-, hlen, hbytes⟩ := hin
    exact ⟨hlen, hbytes, (Except.ok.inj hline).symm⟩
  next => cases hline

/-- The state that loading a row leads to. -/
def rowLoaded (n : Nat) (row : List Nat) (rest : List HostAccess) (s : State) : State :=
  { s with
    pending := rest, bitlen := ofHalf (lowHalf (word n)),
    frame := writeRow row (rowWords row) s.frame }

theorem run_ldrow {n : Nat} {row : List Nat} {rest : List HostAccess} {s : State}
    (hp : paramsOk s.params = true)
    (hpend : s.pending = rowWrites s.params.base row (rowWords row) ++
      (asmWrite s.params.base .bitlen (word n) :: rest)) :
    Host.Core.run core ((rowWords row).length + 1) s = .next (rowLoaded n row rest s) := by
  rw [run_rowWrites row _ _ 1 hp hpend]
  exact run_succ_of_step 0 (step_of_pending_write (r := .bitlen) (v := word n) (rest := rest) hp rfl rfl)

/-- Settles O59: the run of the line's writes, then the bytes of the row by where they stand. -/
theorem ldrowLoadsTheRow : Obligations.LdrowLoadsTheRow := by
  intro s n row l rest hp hn hline hpend
  obtain ⟨hlen, hbytes, rfl⟩ := asmLdrow_eq_ok hline
  rw [List.append_assoc] at hpend
  have hlength : (rowWrites s.params.base row (rowWords row) ++
      [asmWrite s.params.base .bitlen (word n)]).length = (rowWords row).length + 1 := by
    simp [rowWrites]
  rw [hlength]
  refine ⟨_, run_ldrow hp hpend, rfl, ?_, fun i hi => ?_, fun a hlo hhi => ?_, fun a ha => ?_, rfl⟩
  · simp [rowLoaded, ofHalf, lowHalf]
    omega
  · rw [rowLoaded, read_writeRow_rowWords hlen, if_pos (by omega), rowByte]
    have hbyte : row.getD i 0 < 256 := by
      rw [List.getD_eq_getElem _ _ hi]
      exact hbytes _ (List.getElem_mem hi)
    exact toNat_ofNat_of_lt hbyte
  · rw [rowLoaded, read_writeRow_rowWords hlen, if_pos (by omega), rowByte, List.getD_eq_default _ _ hlo]
    rfl
  · rw [rowLoaded, read_writeRow_rowWords hlen, if_neg (by omega)]

/-! ### Rows whose bytes are known -/

/-- A byte field is its bytes, each a digit in base 256 (42_extract.md R140). -/
theorem be_eq_foldl (m : Memory) (off w : Nat) :
    be m off w = (byteRange m off (off + w)).foldl (fun n b => 256 * n + b.toNat) 0 := by
  induction w with
  | zero => simp [byteRange]
  | succ w ih =>
    have hsplit : byteRange m off (off + (w + 1)) = byteRange m off (off + w) ++ [m.read (off + w)] := by
      simp [byteRange, List.range_succ]
    rw [be_succ, ih, hsplit, List.foldl_append, List.foldl_cons, List.foldl_nil]

/-- A range inside a row whose bytes are known. -/
theorem byteRange_of_row {m : Memory} {n a b : Nat} {row : List Byte} (h : byteRange m 0 n = row)
    (hb : b ≤ n) : byteRange m a b = (row.take b).drop a := by
  subst h
  refine List.ext_getElem (by simp; omega) fun i _ _ => ?_
  simp

/-- A byte field inside a row whose bytes are known. -/
theorem be_of_row {m : Memory} {n off w : Nat} {row : List Byte} (h : byteRange m 0 n = row)
    (hw : off + w ≤ n) :
    be m off w = ((row.take (off + w)).drop off).foldl (fun n b => 256 * n + b.toNat) 0 := by
  rw [be_eq_foldl, byteRange_of_row h hw]

/-- `crc 0, 9` over "123456789" (40_crc.md section 2). -/
theorem exec_crc_digits {s : State}
    (hrow : byteRange s.frame 0 9 = [0x31, 0x32, 0x33, 0x34, 0x35, 0x36, 0x37, 0x38, 0x39])
    (hbitlen : s.bitlen = 72) (hpoly : s.crcPoly = 0x1021) (hinit : s.crcInit = 0xFFFF)
    (hxor : s.crcXorout = 0xFFFF) :
    exec (.crc 0 9) s = .next { s with result := 0x0000D64E, status := withOutcome 1 s.status } := by
  have hin : ¬ availBytes s < (0 : BitVec 8).toNat + (9 : BitVec 8).toNat := by
    rw [availBytes, hbitlen]
    decide
  have hcrc : crcv (byteRange s.frame (0 : BitVec 8).toNat ((0 : BitVec 8).toNat + (9 : BitVec 8).toNat))
      (lowHalf s.crcPoly) (lowHalf s.crcInit) (lowHalf s.crcXorout) = 0xD64E := by
    rw [hpoly, hinit, hxor]
    refine (congrArg (crcv · _ _ _) hrow).trans ?_
    decide +kernel
  rw [exec_crc, execCrc_of_in_row hin, hcrc]
  rfl

/-- `extu 4, 4` over the bytes 00 00 01 2C (42_extract.md section 2). -/
theorem exec_extu_example {s : State} (hrow : byteRange s.frame 4 8 = [0x00, 0x00, 0x01, 0x2C])
    (hbitlen : s.bitlen = 128) :
    exec (.extu 4 4) s = .next { s with result := 0x0000012C, status := withOutcome 1 s.status } := by
  have hin : ¬ availBytes s < (4 : BitVec 8).toNat + (4 : BitVec 3).toNat := by
    rw [availBytes, hbitlen]
    decide
  have hbe : be s.frame (4 : BitVec 8).toNat (4 : BitVec 3).toNat = 0x12C :=
    (be_eq_foldl s.frame 4 4).trans (by rw [hrow]; rfl)
  rw [exec_extu, execExtu_of_widthOk (by decide), if_neg hin, hbe]
  rfl

/-- The low and the high nibble of byte 8 (42_extract.md section 2). -/
theorem exec_extb_examples {s : State} (hbyte : s.frame.read 8 = 0xA7)
    (hbitlen : 72 ≤ (s.bitlen.extractLsb' 0 16).toNat) :
    exec (.extb 68 4) s = .next { s with result := 0x7, status := withOutcome 1 s.status } ∧
    exec (.extb 64 4) s = .next { s with result := 0xA, status := withOutcome 1 s.status } := by
  have hrow : 72 ≤ 8 * availBytes s := by
    rw [availBytes_eq]
    omega
  have hbits : bits s.frame 64 (4 + 4) = 0xA7 := (bits_eight s.frame 8).trans (by rw [hbyte]; rfl)
  have hlow : bits s.frame 68 4 = 0x7 := by rw [← bits_add_mod s.frame 64 4 4, hbits]; rfl
  have hhigh : bits s.frame 64 4 = 0xA := by rw [← bits_add_div s.frame 64 4 4, hbits]; rfl
  constructor
  · have hin : ¬ 8 * availBytes s < (68 : BitVec 12).toNat + (4 : BitVec 6).toNat := Nat.not_lt.mpr hrow
    have hvalue : bits s.frame (68 : BitVec 12).toNat (4 : BitVec 6).toNat = 0x7 := hlow
    rw [exec_extb, execExtb_of_widthOk (by decide), if_neg hin, hvalue]
    rfl
  · have hin : ¬ 8 * availBytes s < (64 : BitVec 12).toNat + (4 : BitVec 6).toNat :=
      Nat.not_lt.mpr (hrow.trans' (by decide))
    have hvalue : bits s.frame (64 : BitVec 12).toNat (4 : BitVec 6).toNat = 0xA := hhigh
    rw [exec_extb, execExtb_of_widthOk (by decide), if_neg hin, hvalue]
    rfl

/-- The SCM+ frame of the first scenario decodes under enforcement (44_decode.md section 2). -/
theorem exec_decodeScmp_example {s : State} (hbitlen : s.bitlen = 128) (hen : s.cfg.getLsbD 0 = true)
    (hrow : byteRange s.frame 0 16 = [0x16, 0xA3, 0x1E, 0x02, 0x00, 0x00, 0x01, 0x2C, 0x00, 0x00, 0x04,
      0xD2, 0x00, 0x00, 0x46, 0x38]) :
    ∃ t, exec .decodeScmp s = .next t ∧ statusOutcome t.status = 1 ∧ statusMic t.status = true ∧
      t.fields = fieldFile [0x1E, 0x02, 0x0000012C, 0x000004D2, 0x0000, 0x4638, 0x4638] := by
  have hon : scmpCrcEn s.cfg = true := hen
  have hm : matchFrame scmpSpec s = .matched := by
    refine matchFrame_matched.mpr ⟨by rw [hbitlen]; rfl, ?_⟩
    exact (byteRange_of_row hrow (by decide)).trans rfl
  have hbe (off w v : Nat) (hw : off + w ≤ 16) (hv : _ = v) : be s.frame off w = v :=
    (be_of_row hrow hw).trans hv
  have hreceived : receivedCrc s.frame scmpSpec.crc = 0x4638 :=
    congrArg (BitVec.ofNat 16) (hbe 14 2 0x4638 (by decide) rfl)
  have hcomputed : computedCrc s.frame scmpSpec.crc = 0x4638 := by
    rw [computedCrc_scmp, byteRange_of_row hrow (by decide)]
    decide +kernel
  have hagree : checksumsAgree scmpSpec s.frame = true :=
    checksumsAgree_scmp_iff.mpr (hcomputed.trans hreceived.symm)
  have hfields : scmpFields s.frame = [0x1E, 0x02, 0x0000012C, 0x000004D2, 0x0000, 0x4638, 0x4638] := by
    rw [scmpFields, hreceived, hcomputed, hbe 2 1 0x1E (by decide) rfl, hbe 3 1 0x02 (by decide) rfl,
      hbe 4 4 0x12C (by decide) rfl, hbe 8 4 0x4D2 (by decide) rfl, hbe 12 2 0 (by decide) rfl]
    rfl
  refine ⟨_, (congrArg (decodeFrame scmpSpec · scmpFields s) hon).trans
    ((decodeFrame_matched scmpSpec true scmpFields s hm).trans (if_neg (by simp [hagree]))), ?_⟩
  simp [OutcomeCode.code, hfields]

/-- Settles O31, example by example. -/
theorem workedCommandExamples : Obligations.WorkedCommandExamples :=
  ⟨fun _ => exec_crc_digits, fun _ => exec_extu_example, fun _ => exec_extb_examples,
    fun _ => exec_decodeScmp_example⟩

end Sys2Proof.Machine
end
